-- ==== Sys2Proof/Word.lean ====
section
/-! DEFINITION. The plain bit-vector types of the block (00_scope.md R9, R11). -/

namespace Sys2Proof

/-- A byte: 8 bits, unsigned (R11). -/
abbrev Byte := BitVec 8

/-- A 16-bit header value (R63). -/
abbrev Half := BitVec 16

/-- A 32-bit word: a count or size in two's complement, or a status register (R9, R38). -/
abbrev Word := BitVec 32

end Sys2Proof
end

