-- ==== Sys2Proof/Syntax.lean ====
section
/-! DEFINITION. What the host presents to the block, and the block's operations: one constructor of `Instr` per row of
spec/opcode_table.json (30_encoding.md R92). -/

namespace Sys2Proof

/-- The byte order of the two 32-bit stream values (00_scope.md R8). -/
inductive PrefixOrder where
  | le
  | be
  deriving DecidableEq, Repr

/-- The reader's phases (10_state.md R22). -/
inductive Phase where
  | idle
  | count
  | size
  | body
  | done
  | error
  deriving DecidableEq, Repr

/-- One answer to a stream request (10_state.md R35, 20_memory.md R61). -/
inductive Symbol where
  | byte (b : Byte)
  | eos
  | fail
  deriving DecidableEq, Repr

/-- The result of the whole-header decode (40_decoder.md R114): twelve unsigned fields. -/
structure DecodedHeader where
  version        : BitVec 4
  ihl            : BitVec 4
  tos            : Byte
  totalLength    : Half
  identification : Half
  flags          : Byte
  fragOffset     : BitVec 13
  ttl            : Byte
  protocol       : Byte
  checksum       : Half
  src            : Vector Byte 4
  dst            : Vector Byte 4
  deriving DecidableEq, Repr, Inhabited

/-- Where a header operation takes its header from. `port`: the block's own `hdr[0..19]`, read through the combinational
port `dec` (10_state.md R34). `given`: bytes handed to the decoder on its own (40_decoder.md R115). -/
inductive HdrSrc where
  | port
  | given (bytes : List Byte)
  deriving DecidableEq, Repr

/-- The thirteen header outputs a request can name (30_encoding.md R83, R92). -/
inductive HdrSel where
  | version
  | ihl
  | tos
  | totalLength
  | identification
  | flags
  | fragOffset
  | ttl
  | protocol
  | checksum
  | srcAddr
  | dstAddr
  | whole
  deriving DecidableEq, Repr

/-- One act of the host (10_state.md R36, R37, R40, R41), and the operations that may be asked for on their own
(40_decoder.md R100, R115, R130). -/
inductive HostAct where
  /-- `Start(opened)`. -/
  | start (opened : Bool)
  /-- `Reset`. -/
  | reset
  /-- The answer to one stream request. -/
  | answer (sym : Symbol)
  /-- Bits that select a row by themselves: one byte is a protocol number (format PROTO8), two bytes are Merge16's
  operands (PRIM16), twenty bytes are a header (HDR20). -/
  | word (bytes : List Byte)
  /-- A header output. -/
  | header (sel : HdrSel) (src : HdrSrc)
  /-- A read of the port `dec_proto_class`. -/
  | readClass
  /-- A read of a status register. -/
  | readReg (n : Nat)
  /-- A write to a status register. -/
  | writeReg (n : Nat) (v : Word)
  deriving DecidableEq, Repr

/-- The block's operations, in the order of spec/opcode_table.json. -/
inductive Instr where
  | merge16 (b1 b2 : Byte)
  | decVersion (src : HdrSrc)
  | decIhl (src : HdrSrc)
  | decTos (src : HdrSrc)
  | decTotalLength (src : HdrSrc)
  | decIdentification (src : HdrSrc)
  | decFlags (src : HdrSrc)
  | decFragOffset (src : HdrSrc)
  | decTtl (src : HdrSrc)
  | decProtocol (src : HdrSrc)
  | decChecksum (src : HdrSrc)
  | decSrcAddr (src : HdrSrc)
  | decDstAddr (src : HdrSrc)
  | decode (src : HdrSrc)
  | protoIcmp
  | protoIgmp
  | protoTcp
  | protoIgrp
  | protoUdp
  | protoGre
  | protoEsp
  | protoAh
  | protoSkip
  | protoEigrp
  | protoOspf
  | protoL2tp
  /-- The default row carries the protocol number it was selected for. -/
  | protoUnknown (pr : Byte)
  | cmdStart (opened : Bool)
  | cmdReset
  /-- A record row carries the stream symbol of its step. -/
  | recCount (sym : Symbol)
  | recSize (sym : Symbol)
  | recBody (sym : Symbol)
  | clsCountEmpty
  /-- A class row carries the byte that completes the four. -/
  | clsCountNone (b : Byte)
  | clsCountFrames (b : Byte)
  | clsSizeOverflow (b : Byte)
  | clsSizeAccept (b : Byte)
  | clsSizeUndersize (b : Byte)
  deriving DecidableEq, Repr

end Sys2Proof
end

