-- ==== Sys2Proof/Config.lean ====
section
/-! DEFINITION. The block's fixed parameters (00_scope.md R6, R7) and the values the spec leaves open
(93_implementation_defined.md U3). PREFIX_ORDER is held in State, so that every statement speaks of both orders (log 4). -/

namespace Sys2Proof

/-- `FRAME_CAPACITY`, the largest accepted frame size (R6). -/
abbrev Config.frameCapacity : Int := 2048

/-- `HEADER_LEN`, the smallest accepted frame size and the number of bytes the decoder reads (R7). -/
abbrev Config.headerLen : Nat := 20

/-- FREE VALUE (log 5): what the port `dec` shows outside its window, for the n-th such read (R34, R217, U3). -/
opaque Config.openDec : Nat → DecodedHeader

/-- FREE VALUE (log 5): what the port `dec_proto_class` shows outside its window, for the n-th such read (R34, U3). -/
opaque Config.openProtoClass : Nat → BitVec 4

end Sys2Proof
end

