-- ==== Sys2Proof/Machine/Operands.lean ====
section
/-! DEFINITION. Every extraction shape and value class of the spec, as pure functions (20_memory.md R63 to R65;
30_encoding.md R82 to R86; 40_decoder.md R100 to R117, R130, R131). -/

namespace Sys2Proof.Machine

/-- The twenty bytes of a header (10_state.md R27). -/
abbrev HeaderBytes := Vector Byte 20

/-- `Merge16(b1, b2)`: the first stream byte is the high half (R100, 90_conflicts.md C1). -/
def merge16 (b1 b2 : Byte) : Half := (b1.zeroExtend 16 <<< 8) ||| b2.zeroExtend 16

/-- `version = hdr[0] >> 4` (R102). -/
def versionOf (h : HeaderBytes) : BitVec 4 := (h[0] >>> 4).setWidth 4

/-- `ihl = hdr[0] & 0x0F` (R103). -/
def ihlOf (h : HeaderBytes) : BitVec 4 := (h[0] &&& 0x0F).setWidth 4

/-- `tos = hdr[1]` (R104). -/
def tosOf (h : HeaderBytes) : Byte := h[1]

/-- `total_length = Merge16(hdr[2], hdr[3])` (R105). -/
def totalLengthOf (h : HeaderBytes) : Half := merge16 h[2] h[3]

/-- `identification = Merge16(hdr[4], hdr[5])` (R106). -/
def identificationOf (h : HeaderBytes) : Half := merge16 h[4] h[5]

/-- `flags = hdr[6] & 0xE0`, not shifted (R107, 90_conflicts.md C3). -/
def flagsOf (h : HeaderBytes) : Byte := h[6] &&& 0xE0

/-- `frag_offset = Merge16(hdr[6] & 0x1F, hdr[7])`, 13 bits (R108). -/
def fragOffsetOf (h : HeaderBytes) : BitVec 13 := (merge16 (h[6] &&& 0x1F) h[7]).setWidth 13

/-- `ttl = hdr[8]` (R109). -/
def ttlOf (h : HeaderBytes) : Byte := h[8]

/-- `protocol = hdr[9]` (R110). -/
def protocolOf (h : HeaderBytes) : Byte := h[9]

/-- `checksum = Merge16(hdr[10], hdr[11])` (R111). -/
def checksumOf (h : HeaderBytes) : Half := merge16 h[10] h[11]

/-- `src[j] = hdr[12+j]` (R112). -/
def srcOf (h : HeaderBytes) : Vector Byte 4 := #v[h[12], h[13], h[14], h[15]]

/-- `dst[j] = hdr[16+j]` (R113). -/
def dstOf (h : HeaderBytes) : Vector Byte 4 := #v[h[16], h[17], h[18], h[19]]

/-- `Decode(h)`, total on twenty bytes (R114, R115). -/
def decodeHeader (h : HeaderBytes) : DecodedHeader where
  version        := versionOf h
  ihl            := ihlOf h
  tos            := tosOf h
  totalLength    := totalLengthOf h
  identification := identificationOf h
  flags          := flagsOf h
  fragOffset     := fragOffsetOf h
  ttl            := ttlOf h
  protocol       := protocolOf h
  checksum       := checksumOf h
  src            := srcOf h
  dst            := dstOf h

/-- The first twenty of the given bytes; none where there are fewer, and never padded (R115). -/
def headerOfBytes (bytes : List Byte) : Option HeaderBytes :=
  if h : (bytes.take 20).length = 20 then some ⟨(bytes.take 20).toArray, by simpa using h⟩ else none

/-- The header as one 160-bit word `hdr[0] ++ hdr[1] ++ … ++ hdr[19]` (R84). -/
def headerWord (h : HeaderBytes) : BitVec 160 :=
  h[0] ++ h[1] ++ h[2] ++ h[3] ++ h[4] ++ h[5] ++ h[6] ++ h[7] ++ h[8] ++ h[9] ++
  h[10] ++ h[11] ++ h[12] ++ h[13] ++ h[14] ++ h[15] ++ h[16] ++ h[17] ++ h[18] ++ h[19]

/-- An address packed into a word, the first octet in bits 31:24 (R117). -/
def packedAddress (a : Vector Byte 4) : Word := a[0] ++ a[1] ++ a[2] ++ a[3]

/-- `ProtoClass(pr)` (R86, R130). -/
def protoClass (pr : Byte) : BitVec 4 :=
  match pr.toNat with
  | 1 => 1
  | 2 => 2
  | 6 => 3
  | 9 => 4
  | 17 => 5
  | 47 => 6
  | 50 => 7
  | 51 => 8
  | 57 => 9
  | 88 => 10
  | 89 => 11
  | 115 => 12
  | _ => 0

/-- `ProtoName(class)`: the text the host maps a class code to (R131). There is none for the codes 13 to 15, which are never
produced (R130). -/
def protoName (c : BitVec 4) : Option String :=
  match c.toNat with
  | 0 => some "Unknown protocol"
  | 1 => some "ICMP"
  | 2 => some "IGMP"
  | 3 => some "TCP"
  | 4 => some "IGRP"
  | 5 => some "UDP"
  | 6 => some "GRE"
  | 7 => some "ESP"
  | 8 => some "AH"
  | 9 => some "SKIP"
  | 10 => some "EIGRP"
  | 11 => some "OSPF"
  | 12 => some "L2TP"
  | _ => none

/-- `Assemble32(p0, p1, p2, p3)` (R64). -/
def assemble32 (order : PrefixOrder) (p0 p1 p2 p3 : Byte) : Word :=
  match order with
  | .le => p3 ++ p2 ++ p1 ++ p0
  | .be => p0 ++ p1 ++ p2 ++ p3

/-- The word that byte `b` completes after the three bytes held in `pre_buf` (R145, R150). -/
def completedWord (order : PrefixOrder) (buf : Vector Byte 4) (b : Byte) : Word :=
  assemble32 order buf[0] buf[1] buf[2] b

/-- `s32(c) ≤ 0`: the class NO_FRAMES of a completed count; the other is FRAMES (R82, R145). -/
def countIsNone (c : Word) : Bool := decide (c.toInt ≤ 0)

/-- `s32(n) > FRAME_CAPACITY`: the class OVERFLOW of a completed size (R82, R151). -/
def sizeOverflows (n : Word) : Bool := decide (Config.frameCapacity < n.toInt)

/-- `s32(n) < HEADER_LEN`: the class UNDERSIZE of a completed size (R82, R152). -/
def sizeUndersize (n : Word) : Bool := decide (n.toInt < Config.headerLen)

end Sys2Proof.Machine
end

