-- ==== Sys2Proof/WellFormed.lean ====
section
/-! DEFINITION. Which terms of `Instr` are operations of the block: a given header has at least twenty bytes (40_decoder.md
R115), and the default protocol row stands only for a number that no other row has (30_encoding.md R86, R92). -/

namespace Sys2Proof

/-- A given header has the twenty bytes the decoder reads (R115). -/
def HdrSrc.wellFormed : HdrSrc → Bool
  | .port => true
  | .given bytes => decide (Config.headerLen ≤ bytes.length)

/-- The check, constructor by constructor. -/
def Instr.wellFormed : Instr → Bool
  | .merge16 _ _ => true
  | .decVersion src => src.wellFormed
  | .decIhl src => src.wellFormed
  | .decTos src => src.wellFormed
  | .decTotalLength src => src.wellFormed
  | .decIdentification src => src.wellFormed
  | .decFlags src => src.wellFormed
  | .decFragOffset src => src.wellFormed
  | .decTtl src => src.wellFormed
  | .decProtocol src => src.wellFormed
  | .decChecksum src => src.wellFormed
  | .decSrcAddr src => src.wellFormed
  | .decDstAddr src => src.wellFormed
  | .decode src => src.wellFormed
  | .protoIcmp => true
  | .protoIgmp => true
  | .protoTcp => true
  | .protoIgrp => true
  | .protoUdp => true
  | .protoGre => true
  | .protoEsp => true
  | .protoAh => true
  | .protoSkip => true
  | .protoEigrp => true
  | .protoOspf => true
  | .protoL2tp => true
  | .protoUnknown pr => Machine.protoClass pr == 0
  | .cmdStart _ => true
  | .cmdReset => true
  | .recCount _ => true
  | .recSize _ => true
  | .recBody _ => true
  | .clsCountEmpty => true
  | .clsCountNone _ => true
  | .clsCountFrames _ => true
  | .clsSizeOverflow _ => true
  | .clsSizeAccept _ => true
  | .clsSizeUndersize _ => true

end Sys2Proof
end

