-- ==== Sys2Proof/Decode.lean ====
section
/-! DEFINITION. From what the host presents to the row of spec/opcode_table.json that handles it (30_encoding.md R92), total
and rejecting by name; then the encoders: an instruction's host act, a header's bytes (R91), a container's bytes (R80). -/

namespace Sys2Proof

/-- The part of the state that selects a record or class row (R92): the phase, the count of bytes already held, those bytes
and the byte order. -/
structure Situation where
  phase : Phase
  preIdx : BitVec 2
  preBuf : Vector Byte 4
  prefixOrder : PrefixOrder
  deriving DecidableEq, Repr

/-- Why a host act selects no row. -/
inductive DecodeError where
  /-- A stream answer in a phase that makes no request (10_state.md R35, 41_reader.md R140). -/
  | noRequest
  /-- Bits whose length is that of no bit-selected format. -/
  | wordLength
  /-- A header shorter than twenty bytes (40_decoder.md R115). -/
  | shortHeader
  deriving DecidableEq, Repr

/-- What a host act is: an operation of the table, an access to the status registers or the class port, or nothing the
block knows. -/
inductive Decoded where
  | instr (i : Instr)
  | readClass
  | readReg (n : Nat)
  | writeReg (n : Nat) (v : Word)
  | reject (e : DecodeError)
  deriving DecidableEq, Repr

/-- The PROTO rows: (mask, pattern, operation), highest priority first (R86, R92). The default row has mask 0 and is applied
by `decodeProto` when none of these matches. -/
def protoRows : List (Byte × Byte × Instr) :=
  [(0xFF, 0x01, .protoIcmp), (0xFF, 0x02, .protoIgmp), (0xFF, 0x06, .protoTcp), (0xFF, 0x09, .protoIgrp),
   (0xFF, 0x11, .protoUdp), (0xFF, 0x2F, .protoGre), (0xFF, 0x32, .protoEsp), (0xFF, 0x33, .protoAh),
   (0xFF, 0x39, .protoSkip), (0xFF, 0x58, .protoEigrp), (0xFF, 0x59, .protoOspf), (0xFF, 0x73, .protoL2tp)]

/-- A PROTO row matches when `(protocol & mask) = pattern`; the default row has the lowest priority (R92). -/
def decodeProto (pr : Byte) : Instr :=
  match protoRows.find? (fun row => pr &&& row.1 == row.2.1) with
  | some row => row.2.2
  | none => .protoUnknown pr

/-- The header row that a request names, whatever the header's bits (R92). -/
def headerInstr (sel : HdrSel) (src : HdrSrc) : Instr :=
  match sel with
  | .version => .decVersion src
  | .ihl => .decIhl src
  | .tos => .decTos src
  | .totalLength => .decTotalLength src
  | .identification => .decIdentification src
  | .flags => .decFlags src
  | .fragOffset => .decFragOffset src
  | .ttl => .decTtl src
  | .protocol => .decProtocol src
  | .checksum => .decChecksum src
  | .srcAddr => .decSrcAddr src
  | .dstAddr => .decDstAddr src
  | .whole => .decode src

/-- Bits that select a row by themselves, told apart by the length of their format (log 8). -/
def decodeWord (bytes : List Byte) : Except DecodeError Instr :=
  match bytes with
  | [pr] => .ok (decodeProto pr)
  | [b1, b2] => .ok (.merge16 b1 b2)
  | _ => if bytes.length = 20 then .ok (.decode (.given bytes)) else .error .wordLength

/-- The row of a COUNT step (41_reader.md R143 to R147): a completed value or an empty stream selects its class row (R82). -/
def selectCount (sit : Situation) (sym : Symbol) : Instr :=
  match sym with
  | .byte b =>
    if sit.preIdx = 3 then
      if Machine.countIsNone (Machine.completedWord sit.prefixOrder sit.preBuf b) then .clsCountNone b else .clsCountFrames b
    else .recCount (.byte b)
  | .eos => if sit.preIdx = 0 then .clsCountEmpty else .recCount .eos
  | .fail => .recCount .fail

/-- The row of a SIZE step (41_reader.md R148 to R152): a completed value selects its class row (R82), the overflow check
first (R183). -/
def selectSize (sit : Situation) (sym : Symbol) : Instr :=
  match sym with
  | .byte b =>
    if sit.preIdx = 3 then
      if Machine.sizeOverflows (Machine.completedWord sit.prefixOrder sit.preBuf b) then .clsSizeOverflow b
      else if Machine.sizeUndersize (Machine.completedWord sit.prefixOrder sit.preBuf b) then .clsSizeUndersize b
      else .clsSizeAccept b
    else .recSize (.byte b)
  | .eos => .recSize .eos
  | .fail => .recSize .fail

/-- The one row that a stream symbol selects (R92, 41_reader.md R140); none where the phase makes no request. -/
def selectRow (sit : Situation) (sym : Symbol) : Option Instr :=
  match sit.phase with
  | .idle => none
  | .count => some (selectCount sit sym)
  | .size => some (selectSize sit sym)
  | .body => some (.recBody sym)
  | .done => none
  | .error => none

/-- THE DECODER: what a host act is in a situation. -/
def decodeAct (sit : Situation) (act : HostAct) : Decoded :=
  match act with
  | .start opened => .instr (.cmdStart opened)
  | .reset => .instr .cmdReset
  | .answer sym =>
    match selectRow sit sym with
    | some i => .instr i
    | none => .reject .noRequest
  | .word bytes =>
    match decodeWord bytes with
    | .ok i => .instr i
    | .error e => .reject e
  | .header sel src => if src.wellFormed then .instr (headerInstr sel src) else .reject .shortHeader
  | .readClass => .readClass
  | .readReg n => .readReg n
  | .writeReg n v => .writeReg n v

/-- The bytes of a table word: bit 0 is the least significant bit of the first byte, and the bytes above `nbits` do not
exist. -/
def tableBytes (nbits w : Nat) : List Byte :=
  (List.range ((nbits + 7) / 8)).map (fun k => BitVec.ofNat 8 (w / 2 ^ (8 * k)))

/-- The instruction the decoder reads from a table word. Bits select a row only in the formats PROTO8, PRIM16 and HDR20
(R92), so other lengths give none. -/
def decodeTableWord (nbits w : Nat) : Option Instr := (decodeWord (tableBytes nbits w)).toOption

/-! ## Encoders -/

/-- THE ENCODER: the host act that presents an instruction. -/
def encode (i : Instr) : HostAct :=
  match i with
  | .merge16 b1 b2 => .word [b1, b2]
  | .decVersion src => .header .version src
  | .decIhl src => .header .ihl src
  | .decTos src => .header .tos src
  | .decTotalLength src => .header .totalLength src
  | .decIdentification src => .header .identification src
  | .decFlags src => .header .flags src
  | .decFragOffset src => .header .fragOffset src
  | .decTtl src => .header .ttl src
  | .decProtocol src => .header .protocol src
  | .decChecksum src => .header .checksum src
  | .decSrcAddr src => .header .srcAddr src
  | .decDstAddr src => .header .dstAddr src
  | .decode src => .header .whole src
  | .protoIcmp => .word [0x01]
  | .protoIgmp => .word [0x02]
  | .protoTcp => .word [0x06]
  | .protoIgrp => .word [0x09]
  | .protoUdp => .word [0x11]
  | .protoGre => .word [0x2F]
  | .protoEsp => .word [0x32]
  | .protoAh => .word [0x33]
  | .protoSkip => .word [0x39]
  | .protoEigrp => .word [0x58]
  | .protoOspf => .word [0x59]
  | .protoL2tp => .word [0x73]
  | .protoUnknown pr => .word [pr]
  | .cmdStart opened => .start opened
  | .cmdReset => .reset
  | .recCount sym => .answer sym
  | .recSize sym => .answer sym
  | .recBody sym => .answer sym
  | .clsCountEmpty => .answer .eos
  | .clsCountNone b => .answer (.byte b)
  | .clsCountFrames b => .answer (.byte b)
  | .clsSizeOverflow b => .answer (.byte b)
  | .clsSizeAccept b => .answer (.byte b)
  | .clsSizeUndersize b => .answer (.byte b)

/-- The situations in which a record or class row is the one its symbol selects: the operands of its rule in 41_reader.md.
Every other row is selected whatever the situation. -/
def Situation.admits (sit : Situation) (i : Instr) : Prop :=
  let n := Machine.completedWord sit.prefixOrder sit.preBuf
  match i with
  | .recCount (.byte _) => sit.phase = .count ∧ sit.preIdx ≠ 3
  | .recCount .eos => sit.phase = .count ∧ sit.preIdx ≠ 0
  | .recCount .fail => sit.phase = .count
  | .recSize (.byte _) => sit.phase = .size ∧ sit.preIdx ≠ 3
  | .recSize _ => sit.phase = .size
  | .recBody _ => sit.phase = .body
  | .clsCountEmpty => sit.phase = .count ∧ sit.preIdx = 0
  | .clsCountNone b => sit.phase = .count ∧ sit.preIdx = 3 ∧ (n b).toInt ≤ 0
  | .clsCountFrames b => sit.phase = .count ∧ sit.preIdx = 3 ∧ 0 < (n b).toInt
  | .clsSizeOverflow b => sit.phase = .size ∧ sit.preIdx = 3 ∧ 2048 < (n b).toInt
  | .clsSizeAccept b => sit.phase = .size ∧ sit.preIdx = 3 ∧ 20 ≤ (n b).toInt ∧ (n b).toInt ≤ 2048
  | .clsSizeUndersize b => sit.phase = .size ∧ sit.preIdx = 3 ∧ (n b).toInt < 20
  | _ => True

/-- The twenty bytes of the `hdr` directive (R91). -/
def headerBytes (d : DecodedHeader) : Machine.HeaderBytes :=
  #v[(d.version.setWidth 8 <<< 4) ||| d.ihl.setWidth 8, d.tos,
     d.totalLength.extractLsb' 8 8, d.totalLength.extractLsb' 0 8,
     d.identification.extractLsb' 8 8, d.identification.extractLsb' 0 8,
     d.flags ||| (d.fragOffset.extractLsb' 8 5).setWidth 8, d.fragOffset.extractLsb' 0 8,
     d.ttl, d.protocol,
     d.checksum.extractLsb' 8 8, d.checksum.extractLsb' 0 8,
     d.src[0], d.src[1], d.src[2], d.src[3],
     d.dst[0], d.dst[1], d.dst[2], d.dst[3]]

/-- The four stream bytes of a 32-bit value: the directives `count c` and `size n` (R90). -/
def wordBytes (order : PrefixOrder) (w : Word) : List Byte :=
  match order with
  | .le => [w.extractLsb' 0 8, w.extractLsb' 8 8, w.extractLsb' 16 8, w.extractLsb' 24 8]
  | .be => [w.extractLsb' 24 8, w.extractLsb' 16 8, w.extractLsb' 8 8, w.extractLsb' 0 8]

/-- The directive `frame n { … }`: a size and exactly that many body bytes (R80, R90). -/
def frameBytes (order : PrefixOrder) (body : List Byte) : List Byte :=
  wordBytes order (BitVec.ofNat 32 body.length) ++ body

/-- The container of a list of frame bodies: the count, then the frames (R80). -/
def containerBytes (order : PrefixOrder) (bodies : List (List Byte)) : List Byte :=
  wordBytes order (BitVec.ofNat 32 bodies.length) ++ bodies.flatMap (frameBytes order)

/-- A host that answers with these bytes, one act per request (R35). -/
def answers (bytes : List Byte) : List HostAct := bytes.map (fun b => .answer (.byte b))

end Sys2Proof
end

