-- ==== Sys2Proof/Machine/State.lean ====
section
/-! DEFINITION. The block's state as plain data (10_state.md R22 to R33), the reasons a step can stop (60_exceptions.md R187),
and the state after reset (70_reset_and_hazards.md R210). -/

namespace Sys2Proof.Machine

/-- `err_code` (10_state.md R30, 60_exceptions.md R180). -/
inductive ErrCode where
  | none
  | open
  | format
  | overflow
  | undersize
  deriving DecidableEq, Repr

/-- `err_field` (10_state.md R30, 60_exceptions.md R181). -/
inductive ErrField where
  | none
  | count
  | size
  | body
  deriving DecidableEq, Repr

/-- An entry of the event log (10_state.md R33). -/
inductive Event where
  | count (c : Word)
  | frame (k : Word) (d : DecodedHeader) (p : BitVec 4)
  | error (code : ErrCode) (field : ErrField)
  | done
  deriving DecidableEq, Repr

/-- What the block last answered to an operation asked for on its own, or to a read (log 3). -/
inductive OutVal where
  | nothing
  | nibble (v : BitVec 4)
  | byte (v : Byte)
  | half (v : Half)
  | offset (v : BitVec 13)
  | octets (v : Vector Byte 4)
  | header (v : DecodedHeader)
  | protoClass (v : BitVec 4)
  | register (v : Word)
  deriving DecidableEq, Repr

/-- The outcome the host maps to an exit code (60_exceptions.md R188). -/
inductive Completion where
  | success
  | failure
  deriving DecidableEq, Repr

/-- A state in which the block waits, or a state that no rule covers. -/
inductive Fault where
  /-- IDLE and nothing from the host: no step until `Start` (41_reader.md R140). Raised by `step`. Safe: no next state. -/
  | awaitingStart
  /-- A busy phase whose stream request the host has not answered: stuck, not final (60_exceptions.md R187). Raised by
  `step`. Safe. -/
  | awaitingAnswer
  /-- DONE or ERROR and nothing from the host: final, no step (41_reader.md R158, R159). Raised by `step`. Safe. -/
  | finished
  /-- A body byte while `body_idx ≥ fsize`: the rule for a body byte needs `body_idx < fsize` (41_reader.md R153), which every
  reachable state has (10_state.md R43). Raised by `execRecBody`. Safe. -/
  | bodyIndexOutOfRange
  deriving DecidableEq, Repr

/-- What the block gives no meaning to (60_exceptions.md R187). All are safe: no step. -/
inductive Refusal where
  /-- An arm of `exec` without its meaning. No arm raises it. -/
  | notModelled (mnemonic : String)
  /-- `Start` outside IDLE (41_reader.md R141). Raised by `execCmdStart`. -/
  | startOutsideIdle
  /-- A stream answer in a phase that makes no request (10_state.md R35). Raised by `step`. -/
  | noRequest
  /-- Bits whose length is that of no bit-selected format. Raised by `step`. -/
  | wordLength
  /-- A header shorter than twenty bytes (40_decoder.md R115). Raised by `step` and by the header operations. -/
  | shortHeader
  /-- A record, class or default protocol row outside the situation its rule names (30_encoding.md R92, 41_reader.md R140).
  Raised by the REC, CLS and PROTO_UNKNOWN meanings; the decoder never selects such a row. -/
  | rowNotSelected
  /-- A host write to a status register (10_state.md R41). Raised by `step`. -/
  | registerWrite
  /-- A read of a register number above 15 (10_state.md R41). Raised by `step`. -/
  | registerNumber
  deriving DecidableEq, Repr

/-- The whole state. The fields down to `events` are the spec's; `prefixOrder` is its model argument (00_scope.md R8), which
no step writes; `inbox`, `out` and `draws` are the model's own (log 2, log 3, log 5). -/
structure State where
  /-- R22 -/
  phase       : Phase
  /-- R23 -/
  preIdx      : BitVec 2
  /-- R23 -/
  preBuf      : Vector Byte 4
  /-- R24 -/
  count       : Word
  /-- R25 -/
  framesDone  : Word
  /-- R26 -/
  fsize       : Word
  /-- R27 -/
  hdr         : Vector Byte 20
  /-- R28 -/
  bodyIdx     : BitVec 12
  /-- R29 -/
  pos         : BitVec 64
  /-- R30 -/
  errCode     : ErrCode
  /-- R30 -/
  errField    : ErrField
  /-- R33, oldest entry first -/
  events      : List Event
  /-- R8, R66 -/
  prefixOrder : PrefixOrder
  /-- what the host does next, in order (log 2) -/
  inbox       : List HostAct
  /-- the last answer to an operation asked for on its own, or to a read (log 3) -/
  out         : OutVal
  /-- how many free values have been read (log 5) -/
  draws       : Nat
  deriving DecidableEq, Repr

/-- The state after Reset (R210). -/
def State.reset : State where
  phase       := .idle
  preIdx      := 0
  preBuf      := Vector.replicate 4 0
  count       := 0
  framesDone  := 0
  fsize       := 0
  hdr         := Vector.replicate 20 0
  bodyIdx     := 0
  pos         := 0
  errCode     := .none
  errField    := .none
  events      := []
  prefixOrder := .le
  inbox       := []
  out         := .nothing
  draws       := 0

end Sys2Proof.Machine
end

