-- ==== Sys2Proof/Machine/Flags.lean ====
section
/-! DEFINITION. The status flags derived from the phase (10_state.md R32, R42), the status registers (R38 to R41) and the
completion status (60_exceptions.md R188). -/

namespace Sys2Proof.Machine

/-- `busy` = phase ∈ {COUNT, SIZE, BODY} (R32). -/
def State.busy (s : State) : Bool := s.phase == .count || s.phase == .size || s.phase == .body

/-- `done` = (phase = DONE) (R32). -/
def State.done (s : State) : Bool := s.phase == .done

/-- `error` = (phase = ERROR) (R32). -/
def State.error (s : State) : Bool := s.phase == .error

/-- `stream_held` = phase ∈ {COUNT, SIZE, BODY} (R42). -/
def State.streamHeld (s : State) : Bool := s.phase == .count || s.phase == .size || s.phase == .body

/-- Success in DONE, failure in ERROR, none before (R188). -/
def State.completion (s : State) : Option Completion :=
  match s.phase with
  | .done => some .success
  | .error => some .failure
  | .idle => none
  | .count => none
  | .size => none
  | .body => none

/-- The 3-bit value of a phase (R22). -/
def phaseBits : Phase → BitVec 3
  | .idle => 0
  | .count => 1
  | .size => 2
  | .body => 3
  | .done => 4
  | .error => 5

/-- The 3-bit value of an error code (R30, R180). -/
def errCodeBits : ErrCode → BitVec 3
  | .none => 0
  | .open => 1
  | .format => 2
  | .overflow => 3
  | .undersize => 4

/-- The 2-bit value of an error field (R30, R181). -/
def errFieldBits : ErrField → BitVec 2
  | .none => 0
  | .count => 1
  | .size => 2
  | .body => 3

/-- STATUS, bits 31 down to 0 (R39). -/
def statusWord (s : State) : Word :=
  (0 : BitVec 18) ++ BitVec.ofBool s.streamHeld ++ BitVec.ofBool s.error ++ BitVec.ofBool s.done ++ BitVec.ofBool s.busy ++
  s.preIdx ++ errFieldBits s.errField ++ errCodeBits s.errCode ++ phaseBits s.phase

/-- The content of a status register; the reserved numbers read 0, and there is no number above 15 (R38, R41). -/
def statusRegister (s : State) (n : Nat) : Option Word :=
  match n with
  | 0 => some (statusWord s)
  | 1 => some s.count
  | 2 => some s.framesDone
  | 3 => some s.fsize
  | 4 => some (s.bodyIdx.setWidth 32)
  | 5 => some (s.pos.extractLsb' 0 32)
  | 6 => some (s.pos.extractLsb' 32 32)
  | 7 => some (s.preBuf[3] ++ s.preBuf[2] ++ s.preBuf[1] ++ s.preBuf[0])
  | _ => if n ≤ 15 then some 0 else none

end Sys2Proof.Machine
end

