-- ==== Sys2Proof/Machine/Ops.lean ====
section
/-! DEFINITION. The shared operations: every state change of the block is one of these or is put together from them
(00_scope.md R13, 20_memory.md R61, 41_reader.md, 60_exceptions.md R184, 70_reset_and_hazards.md R210). -/

namespace Sys2Proof.Machine

/-- What selects a record or class row (30_encoding.md R92). -/
def State.situation (s : State) : Situation := ⟨s.phase, s.preIdx, s.preBuf, s.prefixOrder⟩

/-- `Emit(e)`: append to the event log (00_scope.md R13, 10_state.md R33). -/
def emit (e : Event) (s : State) : State := { s with events := s.events ++ [e] }

/-- `goto PHASE` (00_scope.md R14). -/
def enter (p : Phase) (s : State) : State := { s with phase := p }

/-- A stream read that answered `Byte`: `pos` moves on by one. `EOS` and `Fail` consume nothing (20_memory.md R61). -/
def consumeByte (s : State) : State := { s with pos := s.pos + 1 }

/-- TAKING AN ERROR: `raise Err(code, field)` (60_exceptions.md R184). There is no handler, no saved pc, no vector and no
stack. -/
def raiseErr (code : ErrCode) (field : ErrField) (s : State) : State :=
  enter .error (emit (.error code field) { s with errCode := code, errField := field })

/-- THE WAY OUT of ERROR or DONE, and of any other phase: Reset (60_exceptions.md R186, 70_reset_and_hazards.md R210). It is
the block's reset: the byte order is fixed for the run, the host's further acts are the host's, and free values stay fresh
(log 9). -/
def resetBlock (s : State) : State :=
  { State.reset with prefixOrder := s.prefixOrder, inbox := s.inbox, draws := s.draws }

/-- Success: `Emit(Done); goto DONE` (41_reader.md R144, R145, R157). -/
def finish (s : State) : State := enter .done (emit .done s)

/-- Byte 0 to 2 of a count or a size (41_reader.md R143, R148). -/
def storePrefixByte (b : Byte) (s : State) : State :=
  { consumeByte s with preBuf := s.preBuf.setIfInBounds s.preIdx.toNat b, preIdx := s.preIdx + 1 }

/-- The value that byte `b` completes (41_reader.md R145, R150). -/
def State.completed (s : State) (b : Byte) : Word := completedWord s.prefixOrder s.preBuf b

/-- Byte 3 of the count: the writes and the event common to both classes (41_reader.md R145). -/
def completeCount (b : Byte) (s : State) : State :=
  emit (.count (s.completed b))
    { consumeByte s with preBuf := s.preBuf.set 3 b, preIdx := 0, count := s.completed b, framesDone := 0 }

/-- The empty stream (41_reader.md R144). -/
def emptyCount (s : State) : State := finish (emit (.count 0) { s with count := 0 })

/-- Byte 3 of a size: the writes common to all classes (41_reader.md R150). -/
def completeSize (b : Byte) (s : State) : State :=
  { consumeByte s with preBuf := s.preBuf.set 3 b, preIdx := 0, fsize := s.completed b }

/-- The size is accepted: the body begins (41_reader.md R152). -/
def enterBody (s : State) : State := enter .body { s with bodyIdx := 0 }

/-- A body byte: stored while its index is below HEADER_LEN, dropped after that (41_reader.md R153, R155). -/
def storeBodyByte (b : Byte) (s : State) : State :=
  { consumeByte s with
    hdr := if s.bodyIdx.toNat < Config.headerLen then s.hdr.setIfInBounds s.bodyIdx.toNat b else s.hdr
    bodyIdx := s.bodyIdx + 1 }

/-- Frame completion, with `hdr` as this step's byte has left it (41_reader.md R156). -/
def completeFrame (s : State) : State :=
  { emit (.frame s.framesDone (decodeHeader s.hdr) (protoClass s.hdr[9])) s with framesDone := s.framesDone + 1 }

/-- After a frame: the end of the run, or the next size (41_reader.md R157). -/
def afterFrame (s : State) : State :=
  if s.framesDone = s.count then finish s else enter .size { s with preIdx := 0 }

/-- One body byte, whether the last of its frame or not (41_reader.md R153, R156, R157). -/
def takeBodyByte (b : Byte) (s : State) : State :=
  if (s.bodyIdx.toNat : Int) + 1 = s.fsize.toInt then afterFrame (completeFrame (storeBodyByte b s)) else storeBodyByte b s

/-- Put a result where it can be seen; nothing else changes (log 3). -/
def answerWith (v : OutVal) (s : State) : State := { s with out := v }

/-- The window in which the ports `dec` and `dec_proto_class` show the last frame: a frame has been completed, and no body
byte has been consumed since (10_state.md R34, 70_reset_and_hazards.md R217, log 6). A body byte has been consumed since when
the reader is in a body, or stopped in one, with `body_idx` not 0. -/
def State.decOpen (s : State) : Bool :=
  s.framesDone != 0 &&
    !((s.phase == .body || (s.phase == .error && s.errField == .body)) && s.bodyIdx != 0)

/-- A header operation's header, decoded, and the state after reading it. Through the port outside its window it is a free
value, a fresh one at each read (U3, log 5). A given header has its first twenty bytes decoded, and there is none when it is
shorter (40_decoder.md R115). -/
def readHeader (src : HdrSrc) (s : State) : Option (DecodedHeader × State) :=
  match src with
  | .port =>
    if s.decOpen then some (decodeHeader s.hdr, s) else some (Config.openDec s.draws, { s with draws := s.draws + 1 })
  | .given bytes => (headerOfBytes bytes).map (fun h => (decodeHeader h, s))

/-- A header operation: one output of the decoded header (40_decoder.md R102 to R115). -/
def headerOp (output : DecodedHeader → OutVal) (src : HdrSrc) (s : State) : Host.Outcome State Fault Refusal :=
  match readHeader src s with
  | some (d, s') => .next (answerWith (output d) s')
  | none => .refused .shortHeader

/-- A read of the port `dec_proto_class` (10_state.md R34, log 5). -/
def readClassPort (s : State) : Host.Outcome State Fault Refusal :=
  if s.decOpen then .next (answerWith (.protoClass (protoClass s.hdr[9])) s)
  else .next (answerWith (.protoClass (Config.openProtoClass s.draws)) { s with draws := s.draws + 1 })

/-- A read of a status register: no side effects (10_state.md R40), refused above 15 (R41). -/
def readRegister (n : Nat) (s : State) : Host.Outcome State Fault Refusal :=
  match statusRegister s n with
  | some v => .next (answerWith (.register v) s)
  | none => .refused .registerNumber

/-- A host write to a status register: refused whatever the number (10_state.md R41). -/
def writeRegister (_n : Nat) (_v : Word) (_s : State) : Host.Outcome State Fault Refusal := .refused .registerWrite

/-- The refusal that answers an act the decoder rejects. -/
def rejection : DecodeError → Refusal
  | .noRequest => .noRequest
  | .wordLength => .wordLength
  | .shortHeader => .shortHeader

/-- Nothing from the host: what the block waits for (41_reader.md R140, 60_exceptions.md R187, R195). -/
def waiting (s : State) : Fault :=
  match s.phase with
  | .idle => .awaitingStart
  | .count => .awaitingAnswer
  | .size => .awaitingAnswer
  | .body => .awaitingAnswer
  | .done => .finished
  | .error => .finished

end Sys2Proof.Machine
end

