-- ==== Sys2Proof/Machine/Classes.lean ====
section
/-! DEFINITION. The class rows: the step that completes a count or a size whose value is in the row's class (30_encoding.md
R82), or that finds the stream empty. -/

namespace Sys2Proof.Machine

/-- CLS_COUNT_EMPTY (41_reader.md R144). -/
def execClsCountEmpty (s : State) : Host.Outcome State Fault Refusal :=
  if s.phase = .count ∧ s.preIdx = 0 then .next (emptyCount s) else .refused .rowNotSelected

/-- CLS_COUNT_NONE: the completed count is not positive (R145). -/
def execClsCountNone (b : Byte) (s : State) : Host.Outcome State Fault Refusal :=
  if s.phase = .count ∧ s.preIdx = 3 ∧ countIsNone (s.completed b) then .next (finish (completeCount b s))
  else .refused .rowNotSelected

/-- CLS_COUNT_FRAMES: the completed count is positive (R145). -/
def execClsCountFrames (b : Byte) (s : State) : Host.Outcome State Fault Refusal :=
  if s.phase = .count ∧ s.preIdx = 3 ∧ !countIsNone (s.completed b) then .next (enter .size (completeCount b s))
  else .refused .rowNotSelected

/-- CLS_SIZE_OVERFLOW: the completed size is above FRAME_CAPACITY (R150, R151). -/
def execClsSizeOverflow (b : Byte) (s : State) : Host.Outcome State Fault Refusal :=
  if s.phase = .size ∧ s.preIdx = 3 ∧ sizeOverflows (s.completed b) then
    .next (raiseErr .overflow .size (completeSize b s))
  else .refused .rowNotSelected

/-- CLS_SIZE_ACCEPT: the completed size is within both bounds (R150, R152). -/
def execClsSizeAccept (b : Byte) (s : State) : Host.Outcome State Fault Refusal :=
  if s.phase = .size ∧ s.preIdx = 3 ∧ !sizeOverflows (s.completed b) ∧ !sizeUndersize (s.completed b) then
    .next (enterBody (completeSize b s))
  else .refused .rowNotSelected

/-- CLS_SIZE_UNDERSIZE: the completed size is below HEADER_LEN, negative sizes included (R150, R152). -/
def execClsSizeUndersize (b : Byte) (s : State) : Host.Outcome State Fault Refusal :=
  if s.phase = .size ∧ s.preIdx = 3 ∧ sizeUndersize (s.completed b) then
    .next (raiseErr .undersize .size (completeSize b s))
  else .refused .rowNotSelected

end Sys2Proof.Machine
end

