-- ==== Sys2Proof/Machine/Command.lean ====
section
/-! DEFINITION. The two host commands (10_state.md R36). -/

namespace Sys2Proof.Machine

/-- CMD_START (41_reader.md R141). -/
def execCmdStart (opened : Bool) (s : State) : Host.Outcome State Fault Refusal :=
  if s.phase = .idle then
    if opened then .next (enter .count { s with preIdx := 0, pos := 0 }) else .next (raiseErr .open .none s)
  else .refused .startOutsideIdle

/-- CMD_RESET, in any phase (70_reset_and_hazards.md R210, R212). -/
def execCmdReset (s : State) : Host.Outcome State Fault Refusal := .next (resetBlock s)

end Sys2Proof.Machine
end

