-- ==== Sys2Proof/Machine/Header.lean ====
section
/-! DEFINITION. The header rows asked for on their own (40_decoder.md R102 to R114): each shows one output of the decoded
header and writes no register of the block. -/

namespace Sys2Proof.Machine

/-- DEC_VERSION (R102). -/
def execDecVersion (src : HdrSrc) (s : State) : Host.Outcome State Fault Refusal :=
  headerOp (fun d => .nibble d.version) src s

/-- DEC_IHL (R103). -/
def execDecIhl (src : HdrSrc) (s : State) : Host.Outcome State Fault Refusal :=
  headerOp (fun d => .nibble d.ihl) src s

/-- DEC_TOS (R104). -/
def execDecTos (src : HdrSrc) (s : State) : Host.Outcome State Fault Refusal :=
  headerOp (fun d => .byte d.tos) src s

/-- DEC_TOTAL_LENGTH (R105). -/
def execDecTotalLength (src : HdrSrc) (s : State) : Host.Outcome State Fault Refusal :=
  headerOp (fun d => .half d.totalLength) src s

/-- DEC_IDENTIFICATION (R106). -/
def execDecIdentification (src : HdrSrc) (s : State) : Host.Outcome State Fault Refusal :=
  headerOp (fun d => .half d.identification) src s

/-- DEC_FLAGS (R107). -/
def execDecFlags (src : HdrSrc) (s : State) : Host.Outcome State Fault Refusal :=
  headerOp (fun d => .byte d.flags) src s

/-- DEC_FRAG_OFFSET (R108). -/
def execDecFragOffset (src : HdrSrc) (s : State) : Host.Outcome State Fault Refusal :=
  headerOp (fun d => .offset d.fragOffset) src s

/-- DEC_TTL (R109). -/
def execDecTtl (src : HdrSrc) (s : State) : Host.Outcome State Fault Refusal :=
  headerOp (fun d => .byte d.ttl) src s

/-- DEC_PROTOCOL (R110). -/
def execDecProtocol (src : HdrSrc) (s : State) : Host.Outcome State Fault Refusal :=
  headerOp (fun d => .byte d.protocol) src s

/-- DEC_CHECKSUM (R111). -/
def execDecChecksum (src : HdrSrc) (s : State) : Host.Outcome State Fault Refusal :=
  headerOp (fun d => .half d.checksum) src s

/-- DEC_SRC_ADDR (R112). -/
def execDecSrcAddr (src : HdrSrc) (s : State) : Host.Outcome State Fault Refusal :=
  headerOp (fun d => .octets d.src) src s

/-- DEC_DST_ADDR (R113). -/
def execDecDstAddr (src : HdrSrc) (s : State) : Host.Outcome State Fault Refusal :=
  headerOp (fun d => .octets d.dst) src s

/-- DECODE (R114). The frame completion that R156 adds is part of the step of REC_BODY (log 1). -/
def execDecode (src : HdrSrc) (s : State) : Host.Outcome State Fault Refusal :=
  headerOp (fun d => .header d) src s

end Sys2Proof.Machine
end

