-- ==== Sys2Proof/Machine/Primitive.lean ====
section
/-! DEFINITION. The merge primitive asked for on its own (40_decoder.md R100). -/

namespace Sys2Proof.Machine

/-- MERGE16 (R100). -/
def execMerge16 (b1 b2 : Byte) (s : State) : Host.Outcome State Fault Refusal :=
  .next (answerWith (.half (merge16 b1 b2)) s)

end Sys2Proof.Machine
end

