-- ==== Sys2Proof/Machine/Protocol.lean ====
section
/-! DEFINITION. The protocol class rows asked for on their own (40_decoder.md R130): each shows the class code that the table
of 30_encoding.md R86 gives it. -/

namespace Sys2Proof.Machine

/-- PROTO_ICMP (R86, R130). -/
def execProtoIcmp (s : State) : Host.Outcome State Fault Refusal :=
  .next (answerWith (.protoClass 1) s)

/-- PROTO_IGMP (R86, R130). -/
def execProtoIgmp (s : State) : Host.Outcome State Fault Refusal :=
  .next (answerWith (.protoClass 2) s)

/-- PROTO_TCP (R86, R130). -/
def execProtoTcp (s : State) : Host.Outcome State Fault Refusal :=
  .next (answerWith (.protoClass 3) s)

/-- PROTO_IGRP (R86, R130). -/
def execProtoIgrp (s : State) : Host.Outcome State Fault Refusal :=
  .next (answerWith (.protoClass 4) s)

/-- PROTO_UDP (R86, R130). -/
def execProtoUdp (s : State) : Host.Outcome State Fault Refusal :=
  .next (answerWith (.protoClass 5) s)

/-- PROTO_GRE (R86, R130). -/
def execProtoGre (s : State) : Host.Outcome State Fault Refusal :=
  .next (answerWith (.protoClass 6) s)

/-- PROTO_ESP (R86, R130). -/
def execProtoEsp (s : State) : Host.Outcome State Fault Refusal :=
  .next (answerWith (.protoClass 7) s)

/-- PROTO_AH (R86, R130). -/
def execProtoAh (s : State) : Host.Outcome State Fault Refusal :=
  .next (answerWith (.protoClass 8) s)

/-- PROTO_SKIP (R86, R130). -/
def execProtoSkip (s : State) : Host.Outcome State Fault Refusal :=
  .next (answerWith (.protoClass 9) s)

/-- PROTO_EIGRP (R86, R130). -/
def execProtoEigrp (s : State) : Host.Outcome State Fault Refusal :=
  .next (answerWith (.protoClass 10) s)

/-- PROTO_OSPF (R86, R130). -/
def execProtoOspf (s : State) : Host.Outcome State Fault Refusal :=
  .next (answerWith (.protoClass 11) s)

/-- PROTO_L2TP (R86, R130). -/
def execProtoL2tp (s : State) : Host.Outcome State Fault Refusal :=
  .next (answerWith (.protoClass 12) s)

/-- PROTO_UNKNOWN (R86, R130): the default row, which stands only for a number that no other row has (R92). -/
def execProtoUnknown (pr : Byte) (s : State) : Host.Outcome State Fault Refusal :=
  if protoClass pr = 0 then .next (answerWith (.protoClass 0) s) else .refused .rowNotSelected

end Sys2Proof.Machine
end

