-- ==== Sys2Proof/Machine/Record.lean ====
section
/-! DEFINITION. The record rows: one reader step on one stream symbol (41_reader.md R140). Each covers every symbol of its
phase; where the value is complete it does what the class row of Classes.lean does. -/

namespace Sys2Proof.Machine

/-- REC_COUNT (R143 to R147). -/
def execRecCount (sym : Symbol) (s : State) : Host.Outcome State Fault Refusal :=
  if s.phase = .count then
    match sym with
    | .byte b =>
      if s.preIdx = 3 then
        if countIsNone (s.completed b) then .next (finish (completeCount b s)) else .next (enter .size (completeCount b s))
      else .next (storePrefixByte b s)
    | .eos => if s.preIdx = 0 then .next (emptyCount s) else .next (raiseErr .format .count s)
    | .fail => .next (raiseErr .format .count s)
  else .refused .rowNotSelected

/-- REC_SIZE (R148 to R152). -/
def execRecSize (sym : Symbol) (s : State) : Host.Outcome State Fault Refusal :=
  if s.phase = .size then
    match sym with
    | .byte b =>
      if s.preIdx = 3 then
        if sizeOverflows (s.completed b) then .next (raiseErr .overflow .size (completeSize b s))
        else if sizeUndersize (s.completed b) then .next (raiseErr .undersize .size (completeSize b s))
        else .next (enterBody (completeSize b s))
      else .next (storePrefixByte b s)
    | .eos => .next (raiseErr .format .size s)
    | .fail => .next (raiseErr .format .size s)
  else .refused .rowNotSelected

/-- REC_BODY (R153 to R157). -/
def execRecBody (sym : Symbol) (s : State) : Host.Outcome State Fault Refusal :=
  if s.phase = .body then
    match sym with
    | .byte b =>
      if (s.bodyIdx.toNat : Int) < s.fsize.toInt then .next (takeBodyByte b s) else .fault .bodyIndexOutOfRange
    | .eos => .next (raiseErr .format .body s)
    | .fail => .next (raiseErr .format .body s)
  else .refused .rowNotSelected

end Sys2Proof.Machine
end

