-- ==== Sys2Proof/Machine/Dispatch.lean ====
section
/-! DEFINITION. One arm per row of spec/opcode_table.json, each one direct call of its meaning. -/

namespace Sys2Proof.Machine

def exec (i : Instr) (s : State) : Host.Outcome State Fault Refusal :=
  match i with
  | .merge16 b1 b2 => Sys2Proof.Machine.execMerge16 b1 b2 s
  | .decVersion src => Sys2Proof.Machine.execDecVersion src s
  | .decIhl src => Sys2Proof.Machine.execDecIhl src s
  | .decTos src => Sys2Proof.Machine.execDecTos src s
  | .decTotalLength src => Sys2Proof.Machine.execDecTotalLength src s
  | .decIdentification src => Sys2Proof.Machine.execDecIdentification src s
  | .decFlags src => Sys2Proof.Machine.execDecFlags src s
  | .decFragOffset src => Sys2Proof.Machine.execDecFragOffset src s
  | .decTtl src => Sys2Proof.Machine.execDecTtl src s
  | .decProtocol src => Sys2Proof.Machine.execDecProtocol src s
  | .decChecksum src => Sys2Proof.Machine.execDecChecksum src s
  | .decSrcAddr src => Sys2Proof.Machine.execDecSrcAddr src s
  | .decDstAddr src => Sys2Proof.Machine.execDecDstAddr src s
  | .decode src => Sys2Proof.Machine.execDecode src s
  | .protoIcmp => Sys2Proof.Machine.execProtoIcmp s
  | .protoIgmp => Sys2Proof.Machine.execProtoIgmp s
  | .protoTcp => Sys2Proof.Machine.execProtoTcp s
  | .protoIgrp => Sys2Proof.Machine.execProtoIgrp s
  | .protoUdp => Sys2Proof.Machine.execProtoUdp s
  | .protoGre => Sys2Proof.Machine.execProtoGre s
  | .protoEsp => Sys2Proof.Machine.execProtoEsp s
  | .protoAh => Sys2Proof.Machine.execProtoAh s
  | .protoSkip => Sys2Proof.Machine.execProtoSkip s
  | .protoEigrp => Sys2Proof.Machine.execProtoEigrp s
  | .protoOspf => Sys2Proof.Machine.execProtoOspf s
  | .protoL2tp => Sys2Proof.Machine.execProtoL2tp s
  | .protoUnknown pr => Sys2Proof.Machine.execProtoUnknown pr s
  | .cmdStart opened => Sys2Proof.Machine.execCmdStart opened s
  | .cmdReset => Sys2Proof.Machine.execCmdReset s
  | .recCount sym => Sys2Proof.Machine.execRecCount sym s
  | .recSize sym => Sys2Proof.Machine.execRecSize sym s
  | .recBody sym => Sys2Proof.Machine.execRecBody sym s
  | .clsCountEmpty => Sys2Proof.Machine.execClsCountEmpty s
  | .clsCountNone b => Sys2Proof.Machine.execClsCountNone b s
  | .clsCountFrames b => Sys2Proof.Machine.execClsCountFrames b s
  | .clsSizeOverflow b => Sys2Proof.Machine.execClsSizeOverflow b s
  | .clsSizeAccept b => Sys2Proof.Machine.execClsSizeAccept b s
  | .clsSizeUndersize b => Sys2Proof.Machine.execClsSizeUndersize b s

end Sys2Proof.Machine
end

