-- ==== Sys2Proof/Machine/Step.lean ====
section
/-! DEFINITION. One step: the block takes the host's next act, and runs the row that act selects (30_encoding.md R92,
41_reader.md R140). -/

namespace Sys2Proof.Machine

/-- The state once the host's next act is taken: all that `step` adds around `exec`. -/
def State.popped (s : State) : State := { s with inbox := s.inbox.tail }

/-- One step. -/
def step (s : State) : Host.Outcome State Fault Refusal :=
  match s.inbox with
  | [] => .fault (waiting s)
  | act :: _ =>
    match decodeAct s.situation act with
    | .instr i => exec i s.popped
    | .readClass => readClassPort s.popped
    | .readReg n => readRegister n s.popped
    | .writeReg n v => writeRegister n v s.popped
    | .reject e => .refused (rejection e)

/-- `s` with a table word as the host's next act. -/
def State.withFetchWord (s : State) (nbits w : Nat) : State := { s with inbox := .word (tableBytes nbits w) :: s.inbox }

end Sys2Proof.Machine
end

