-- ==== Sys2Proof/Safety.lean ====
section
/-! DEFINITION. What every reachable state keeps (10_state.md R43, 41_reader.md R163, 60_exceptions.md R181), and the events
of complete frames. -/

namespace Sys2Proof.Machine

/-- The `Frame` events in order, numbered from `k` without gaps, each with the class of its own protocol byte
(10_state.md R33, 41_reader.md R163). -/
def FramesFrom : Nat → List Event → Prop
  | _, [] => True
  | k, e :: es => (∃ d, e = .frame (BitVec.ofNat 32 k) d (protoClass d.protocol)) ∧ FramesFrom (k + 1) es

/-- The causes that can follow a frame count (60_exceptions.md R181). -/
def LateCause (code : ErrCode) (field : ErrField) : Prop :=
  (code = .format ∧ field = .size) ∨ (code = .overflow ∧ field = .size) ∨ (code = .undersize ∧ field = .size) ∨
    (code = .format ∧ field = .body)

/-- The causes before a frame count (60_exceptions.md R181). -/
def EarlyCause (code : ErrCode) (field : ErrField) : Prop :=
  (code = .open ∧ field = .none) ∨ (code = .format ∧ field = .count)

/-- The log is `Count`, then as many `Frame` events as frames are done, then `tail` (41_reader.md R163). -/
def State.LogIs (s : State) (tail : List Event) : Prop :=
  ∃ frames, s.events = .count s.count :: (frames ++ tail) ∧ FramesFrom 0 frames ∧ frames.length = s.framesDone.toNat

/-- The shape of the event log in each phase (10_state.md R43, 41_reader.md R163). -/
def State.LogShape (s : State) : Prop :=
  match s.phase with
  | .idle => s.events = []
  | .count => s.events = []
  | .size => s.LogIs []
  | .body => s.LogIs []
  | .done => s.LogIs [.done]
  | .error =>
    (EarlyCause s.errCode s.errField ∧ s.events = [.error s.errCode s.errField] ∧ s.framesDone = 0) ∨
      (LateCause s.errCode s.errField ∧ s.LogIs [.error s.errCode s.errField])

/-- The invariants of every reachable state (R43), with what the induction needs beside them: before a count is read,
`count` and `frames_done` are as Reset left them (R24), and frames are left to read in BODY as in SIZE. -/
structure State.Inv (s : State) : Prop where
  phase_le : (phaseBits s.phase).toNat ≤ 5
  errCode_le : (errCodeBits s.errCode).toNat ≤ 4
  errCode_iff : s.errCode ≠ .none ↔ s.phase = .error
  before_count : s.phase = .idle ∨ s.phase = .count → s.count = 0 ∧ s.framesDone = 0
  frames_left : s.phase = .size ∨ s.phase = .body → (s.framesDone.toNat : Int) < s.count.toInt
  in_body : s.phase = .body →
    20 ≤ s.fsize.toInt ∧ s.fsize.toInt ≤ 2048 ∧ (s.bodyIdx.toNat : Int) < s.fsize.toInt
  at_done : s.phase = .done → (s.framesDone.toNat : Int) = max s.count.toInt 0
  log : s.LogShape

/-- The header that a frame body begins with; all zeros for a body shorter than a header, which no accepted frame has. -/
def bodyHeader (body : List Byte) : HeaderBytes := Vector.ofFn (fun k => body.getD k.val 0)

/-- The events of complete frames, numbered from `k` (41_reader.md R156). -/
def frameEvents : Nat → List (List Byte) → List Event
  | _, [] => []
  | k, body :: rest =>
    .frame (BitVec.ofNat 32 k) (decodeHeader (bodyHeader body)) (protoClass ((body.getD 9 0))) :: frameEvents (k + 1) rest

end Sys2Proof.Machine
end

