-- ==== Sys2Proof/Certificates/Slice0/Obligations.lean ====
section
/-! DEFINITION. The statements about the model, for the provers. "log n" is notes/assumptions/n.md. -/

namespace Sys2Proof.Claims

open Sys2Proof.Machine

/-- The signed value of four stream bytes, by their weights (20_memory.md R64). -/
def prefixValue (order : PrefixOrder) (p0 p1 p2 p3 : Byte) : Int :=
  let u : Nat :=
    match order with
    | .le => p0.toNat + 256 * p1.toNat + 65536 * p2.toNat + 16777216 * p3.toNat
    | .be => p3.toNat + 256 * p2.toNat + 65536 * p1.toNat + 16777216 * p0.toNat
  if u < 2147483648 then u else (u : Int) - 4294967296

/-- The signed value that byte `b` completes after the three bytes held in `pre_buf` (41_reader.md R145, R150). -/
def held (s : State) (b : Byte) : Int := prefixValue s.prefixOrder s.preBuf[0] s.preBuf[1] s.preBuf[2] b

/-- The window of the port `dec` (70_reset_and_hazards.md R217, log 6). -/
def DecWindow (s : State) : Prop :=
  s.framesDone ≠ 0 ∧ ¬((s.phase = .body ∨ (s.phase = .error ∧ s.errField = .body)) ∧ s.bodyIdx ≠ 0)

/-- The host's next act is `act`. -/
def Takes (s : State) (act : HostAct) : Prop := ∃ rest, s.inbox = act :: rest

/-- The protocol numbers, class codes and names of 30_encoding.md R86. -/
def protocolTable : List (Byte × BitVec 4 × String) :=
  [(1, 1, "ICMP"), (2, 2, "IGMP"), (6, 3, "TCP"), (9, 4, "IGRP"), (17, 5, "UDP"), (47, 6, "GRE"), (50, 7, "ESP"),
   (51, 8, "AH"), (57, 9, "SKIP"), (88, 10, "EIGRP"), (89, 11, "OSPF"), (115, 12, "L2TP")]

/-- Everything but the model's own `inbox`, `out` and `draws` is as it was. -/
def SameBlock (s t : State) : Prop := ∃ acts v n, t = { s with inbox := acts, out := v, draws := n }

/-- The state in which the host will establish the stream and then do `acts` (70_reset_and_hazards.md R214). -/
def boot (order : PrefixOrder) (acts : List HostAct) : State :=
  { State.reset with prefixOrder := order, inbox := .start true :: acts }

end Sys2Proof.Claims

open Sys2Proof Sys2Proof.Machine Sys2Proof.Claims

/-! ## Encoding and selection -/

/-- Words written out from the tables of the spec decode to their rows: 30_encoding.md R86 and R82, 41_reader.md R145, R151. That
one byte of bits is a protocol number and two bytes are Merge16's operands is the model's reading (log 8); that the byte which
completes a value selects its class row, and not REC_COUNT or REC_SIZE, is the model's choice (log 1). -/
def Obligations.WrittenWordsDecodeToTheirRows : Prop :=
  (∀ sit, decodeAct sit (.word [0b00000110]) = .instr .protoTcp ∧
    decodeAct sit (.word [0b00010001]) = .instr .protoUdp ∧
    decodeAct sit (.word [0b01110011]) = .instr .protoL2tp ∧
    decodeAct sit (.word [0b11001000]) = .instr (.protoUnknown 200) ∧
    decodeAct sit (.word [0x12, 0x34]) = .instr (.merge16 0x12 0x34)) ∧
  decodeAct ⟨.count, 3, #v[0x03, 0x00, 0x00, 0x00], .le⟩ (.answer (.byte 0x00)) = .instr (.clsCountFrames 0x00) ∧
  decodeAct ⟨.count, 3, #v[0xFF, 0xFF, 0xFF, 0x00], .le⟩ (.answer (.byte 0xFF)) = .instr (.clsCountNone 0xFF) ∧
  decodeAct ⟨.size, 3, #v[0x88, 0x13, 0x00, 0x00], .le⟩ (.answer (.byte 0x00)) = .instr (.clsSizeOverflow 0x00) ∧
  decodeAct ⟨.size, 3, #v[0x14, 0x00, 0x00, 0x00], .le⟩ (.answer (.byte 0x00)) = .instr (.clsSizeAccept 0x00) ∧
  decodeAct ⟨.size, 3, #v[0x13, 0x00, 0x00, 0x00], .le⟩ (.answer (.byte 0x00)) = .instr (.clsSizeUndersize 0x00)

/-- DECODE AND ENCODE AGREE, for every well-formed instruction in every situation that admits it (30_encoding.md R92). The
encoder's host act is the model's form of the row (log 1, log 8). -/
def Obligations.EncodedRowsDecodeBack : Prop :=
  ∀ (i : Instr) (sit : Situation), i.wellFormed = true → sit.admits i → decodeAct sit (encode i) = .instr i

/-- The decoder gives only well-formed rows, each in a situation of its own rule, and no other well-formed row that the same act
presents is admitted there (41_reader.md R140). That a completed value, or an empty stream at COUNT byte 0, admits its class row
and not the record row is the model's choice (log 1). -/
def Obligations.DecodedRowsAreWellFormedAndAdmitted : Prop :=
  ∀ (sit : Situation) (act : HostAct) (i : Instr), decodeAct sit act = .instr i →
    i.wellFormed = true ∧ sit.admits i ∧ ∀ j : Instr, encode j = act → j.wellFormed = true → sit.admits j → j = i

/-- The `hdr` directive's bytes are those of 30_encoding.md R91, and decoding them gives the fields back. -/
def Obligations.HeaderDirectiveDecodesBack : Prop :=
  ∀ d : DecodedHeader, d.flags.toNat % 32 = 0 →
    decodeHeader (headerBytes d) = d ∧
    (headerBytes d)[0].toNat = 16 * d.version.toNat + d.ihl.toNat ∧ (headerBytes d)[1] = d.tos ∧
    (headerBytes d)[2].toNat = d.totalLength.toNat / 256 ∧ (headerBytes d)[3].toNat = d.totalLength.toNat % 256 ∧
    (headerBytes d)[4].toNat = d.identification.toNat / 256 ∧ (headerBytes d)[5].toNat = d.identification.toNat % 256 ∧
    (headerBytes d)[6].toNat = d.flags.toNat + d.fragOffset.toNat / 256 ∧
    (headerBytes d)[7].toNat = d.fragOffset.toNat % 256 ∧ (headerBytes d)[8] = d.ttl ∧ (headerBytes d)[9] = d.protocol ∧
    (headerBytes d)[10].toNat = d.checksum.toNat / 256 ∧ (headerBytes d)[11].toNat = d.checksum.toNat % 256 ∧
    (∀ j (h : j < 4), (headerBytes d)[12 + j] = d.src[j]) ∧ (∀ j (h : j < 4), (headerBytes d)[16 + j] = d.dst[j])

/-- No bit of a header is dropped: its decoded fields determine its twenty bytes (30_encoding.md R84). -/
def Obligations.DecodedFieldsDetermineTheHeader : Prop :=
  ∀ h : HeaderBytes, headerBytes (decodeHeader h) = h

/-- Each decoded field is its bits of the 160-bit header word (30_encoding.md R84). -/
def Obligations.FieldsAreBitsOfTheHeaderWord : Prop :=
  ∀ h : HeaderBytes,
    (headerWord h).extractLsb' 152 8 = h[0] ∧ (headerWord h).extractLsb' 0 8 = h[19] ∧
    (decodeHeader h).version = (headerWord h).extractLsb' 156 4 ∧ (decodeHeader h).ihl = (headerWord h).extractLsb' 152 4 ∧
    (decodeHeader h).tos = (headerWord h).extractLsb' 144 8 ∧
    (decodeHeader h).totalLength = (headerWord h).extractLsb' 128 16 ∧
    (decodeHeader h).identification = (headerWord h).extractLsb' 112 16 ∧
    (decodeHeader h).flags = (headerWord h).extractLsb' 109 3 ++ (0 : BitVec 5) ∧
    (decodeHeader h).fragOffset = (headerWord h).extractLsb' 96 13 ∧ (decodeHeader h).ttl = (headerWord h).extractLsb' 88 8 ∧
    (decodeHeader h).protocol = (headerWord h).extractLsb' 80 8 ∧
    (decodeHeader h).checksum = (headerWord h).extractLsb' 64 16 ∧
    (decodeHeader h).src = #v[(headerWord h).extractLsb' 56 8, (headerWord h).extractLsb' 48 8,
      (headerWord h).extractLsb' 40 8, (headerWord h).extractLsb' 32 8] ∧
    (decodeHeader h).dst = #v[(headerWord h).extractLsb' 24 8, (headerWord h).extractLsb' 16 8,
      (headerWord h).extractLsb' 8 8, (headerWord h).extractLsb' 0 8]

/-- The packed addresses, their octets in order from the top, are the two low words of the header (40_decoder.md R117). -/
def Obligations.PackedAddressesAreHeaderWordBits : Prop :=
  ∀ h : HeaderBytes,
    packedAddress (decodeHeader h).src = (headerWord h).extractLsb' 32 32 ∧
    packedAddress (decodeHeader h).dst = (headerWord h).extractLsb' 0 32 ∧
    ∀ a : Vector Byte 4, (packedAddress a).toNat =
      16777216 * a[0].toNat + 65536 * a[1].toNat + 256 * a[2].toNat + a[3].toNat

/-- Four stream bytes in either byte order, as a signed value; the default order is LE (20_memory.md R64). -/
def Obligations.FourBytesAssembleInPrefixOrder : Prop :=
  State.reset.prefixOrder = .le ∧
  ∀ order p0 p1 p2 p3, (assemble32 order p0 p1 p2 p3).toInt = prefixValue order p0 p1 p2 p3

/-! ## The decoder and the protocol classes as functions -/

/-- The merge primitive and its laws (40_decoder.md R100; the laws are those that R101 derives
from it). -/
def Obligations.MergeIsBigEndianAndBijective : Prop :=
  (∀ b1 b2, (merge16 b1 b2).toNat = 256 * b1.toNat + b2.toNat) ∧
  (∀ b1 b2, b1 ≠ b2 → merge16 b1 b2 ≠ merge16 b2 b1) ∧
  (∀ b1 b2, merge16 b1 b2 >>> 8 = b1.setWidth 16 ∧ merge16 b1 b2 &&& 0xFF = b2.setWidth 16) ∧
  (∀ v : Half, ∃ b1 b2, merge16 b1 b2 = v ∧ ∀ c1 c2, merge16 c1 c2 = v → c1 = b1 ∧ c2 = b2) ∧
  (∀ b1 b2, b1.toNat < 32 → (merge16 b1 b2).toNat < 8192)

/-- The twelve fields of a header, byte by byte (40_decoder.md R102 to R113). -/
def Obligations.DecodedFieldsFollowTheByteMap : Prop :=
  ∀ h : HeaderBytes,
    (decodeHeader h).version.toNat = h[0].toNat / 16 ∧ (decodeHeader h).ihl.toNat = h[0].toNat % 16 ∧
    (decodeHeader h).tos = h[1] ∧
    (decodeHeader h).totalLength.toNat = 256 * h[2].toNat + h[3].toNat ∧
    (decodeHeader h).identification.toNat = 256 * h[4].toNat + h[5].toNat ∧
    (decodeHeader h).flags.toNat = 32 * (h[6].toNat / 32) ∧
    (decodeHeader h).fragOffset.toNat = 256 * (h[6].toNat % 32) + h[7].toNat ∧
    (decodeHeader h).ttl = h[8] ∧ (decodeHeader h).protocol = h[9] ∧
    (decodeHeader h).checksum.toNat = 256 * h[10].toNat + h[11].toNat ∧
    (∀ j (hj : j < 4), (decodeHeader h).src[j] = h[12 + j]) ∧ (∀ j (hj : j < 4), (decodeHeader h).dst[j] = h[16 + j])

/-- The class and the name of every protocol number (30_encoding.md R86, 40_decoder.md R130, R131). -/
def Obligations.ProtocolClassFollowsTheTable : Prop :=
  ∀ pr : Byte,
    match protocolTable.find? (fun row => row.1 == pr) with
    | some row => protoClass pr = row.2.1 ∧ protoName (protoClass pr) = some row.2.2
    | none => protoClass pr = 0 ∧ protoName (protoClass pr) = some "Unknown protocol"

/-! ## Operations asked for on their own. That a result is shown in `out` is the model's choice (log 3). -/

/-- MERGE16 completes in every state: its value is shown, and nothing else changes (log 3). -/
def Obligations.MergeCompletes : Prop :=
  ∀ b1 b2 s, exec (.merge16 b1 b2) s = .next { s with out := .half (BitVec.ofNat 16 (256 * b1.toNat + b2.toNat)) }

/-- Every header row completes on given bytes, twenty or more: it shows its field of the first twenty, and nothing else
changes (log 3, log 7). -/
def Obligations.HeaderRowsCompleteOnGivenBytes : Prop :=
  ∀ (bytes : List Byte) (s : State), 20 ≤ bytes.length →
    let d := decodeHeader (bodyHeader bytes)
    exec (.decVersion (.given bytes)) s = .next { s with out := .nibble d.version } ∧
    exec (.decIhl (.given bytes)) s = .next { s with out := .nibble d.ihl } ∧
    exec (.decTos (.given bytes)) s = .next { s with out := .byte d.tos } ∧
    exec (.decTotalLength (.given bytes)) s = .next { s with out := .half d.totalLength } ∧
    exec (.decIdentification (.given bytes)) s = .next { s with out := .half d.identification } ∧
    exec (.decFlags (.given bytes)) s = .next { s with out := .byte d.flags } ∧
    exec (.decFragOffset (.given bytes)) s = .next { s with out := .offset d.fragOffset } ∧
    exec (.decTtl (.given bytes)) s = .next { s with out := .byte d.ttl } ∧
    exec (.decProtocol (.given bytes)) s = .next { s with out := .byte d.protocol } ∧
    exec (.decChecksum (.given bytes)) s = .next { s with out := .half d.checksum } ∧
    exec (.decSrcAddr (.given bytes)) s = .next { s with out := .octets d.src } ∧
    exec (.decDstAddr (.given bytes)) s = .next { s with out := .octets d.dst } ∧
    exec (.decode (.given bytes)) s = .next { s with out := .header d }

/-- Every header row completes through the port `dec` inside its window: it shows its field of `hdr`, and nothing else
changes (10_state.md R34, 70_reset_and_hazards.md R217; log 3, log 6). -/
def Obligations.HeaderRowsCompleteThroughTheOpenPort : Prop :=
  ∀ s : State, DecWindow s →
    let d := decodeHeader s.hdr
    exec (.decVersion .port) s = .next { s with out := .nibble d.version } ∧
    exec (.decIhl .port) s = .next { s with out := .nibble d.ihl } ∧
    exec (.decTos .port) s = .next { s with out := .byte d.tos } ∧
    exec (.decTotalLength .port) s = .next { s with out := .half d.totalLength } ∧
    exec (.decIdentification .port) s = .next { s with out := .half d.identification } ∧
    exec (.decFlags .port) s = .next { s with out := .byte d.flags } ∧
    exec (.decFragOffset .port) s = .next { s with out := .offset d.fragOffset } ∧
    exec (.decTtl .port) s = .next { s with out := .byte d.ttl } ∧
    exec (.decProtocol .port) s = .next { s with out := .byte d.protocol } ∧
    exec (.decChecksum .port) s = .next { s with out := .half d.checksum } ∧
    exec (.decSrcAddr .port) s = .next { s with out := .octets d.src } ∧
    exec (.decDstAddr .port) s = .next { s with out := .octets d.dst } ∧
    exec (.decode .port) s = .next { s with out := .header d }

/-- Outside the window every header row still completes: it shows SOME value, of which nothing is said, and changes no
register of the block (93_implementation_defined.md U3; log 3, log 5). -/
def Obligations.HeaderRowsCompleteThroughTheClosedPort : Prop :=
  ∀ (sel : HdrSel) (s : State), ¬ DecWindow s →
    ∃ v, exec (headerInstr sel .port) s = .next { s with out := v, draws := s.draws + 1 }

/-- A header shorter than twenty bytes is refused, by every header row and at the step that would take it (40_decoder.md
R115). -/
def Obligations.ShortHeadersAreRefused : Prop :=
  ∀ (sel : HdrSel) (bytes : List Byte) (s : State), bytes.length < 20 →
    exec (headerInstr sel (.given bytes)) s = .refused .shortHeader ∧
    (Takes s (.header sel (.given bytes)) → step s = .refused .shortHeader)

/-- Every protocol row completes in every state with the class code of 30_encoding.md R86, and nothing else changes (log 3).
That the default row, which has the lowest priority (R92), is refused when it is asked for on a number of the table is the model's
choice (log 1). -/
def Obligations.ProtocolRowsComplete : Prop :=
  ∀ s : State,
    exec .protoIcmp s = .next { s with out := .protoClass 1 } ∧ exec .protoIgmp s = .next { s with out := .protoClass 2 } ∧
    exec .protoTcp s = .next { s with out := .protoClass 3 } ∧ exec .protoIgrp s = .next { s with out := .protoClass 4 } ∧
    exec .protoUdp s = .next { s with out := .protoClass 5 } ∧ exec .protoGre s = .next { s with out := .protoClass 6 } ∧
    exec .protoEsp s = .next { s with out := .protoClass 7 } ∧ exec .protoAh s = .next { s with out := .protoClass 8 } ∧
    exec .protoSkip s = .next { s with out := .protoClass 9 } ∧ exec .protoEigrp s = .next { s with out := .protoClass 10 } ∧
    exec .protoOspf s = .next { s with out := .protoClass 11 } ∧ exec .protoL2tp s = .next { s with out := .protoClass 12 } ∧
    (∀ pr, pr ∉ protocolTable.map (fun row => row.1) →
      exec (.protoUnknown pr) s = .next { s with out := .protoClass 0 }) ∧
    (∀ pr, pr ∈ protocolTable.map (fun row => row.1) → exec (.protoUnknown pr) s = .refused .rowNotSelected)

/-- A protocol number handed to the lookup selects the row that shows its class, for each of the 256 numbers
(30_encoding.md R92, 40_decoder.md R130; log 3, log 8). -/
def Obligations.ProtocolNumberStepShowsItsClass : Prop :=
  ∀ (s : State) (pr : Byte) (rest : List HostAct), s.inbox = .word [pr] :: rest →
    step s = .next { s with
      inbox := rest, out := .protoClass (((protocolTable.find? (fun row => row.1 == pr)).map (fun row => row.2.1)).getD 0) }

/-- A read of `dec_proto_class` shows the class of `hdr[9]` inside the window and some value outside it, and changes no
register of the block (10_state.md R34; log 3, log 5, log 6). -/
def Obligations.ClassPortFollowsTheWindow : Prop :=
  ∀ (s : State) (rest : List HostAct), s.inbox = .readClass :: rest →
    (DecWindow s → step s = .next { s with inbox := rest, out := .protoClass (protoClass s.hdr[9]) }) ∧
    (¬ DecWindow s → ∃ v, step s = .next { s with inbox := rest, out := .protoClass v, draws := s.draws + 1 })

/-! ## Commands -/

/-- Start in IDLE opens the reader or raises OPEN, and outside IDLE it is refused (41_reader.md R141; the refusal is the
spec's decision D15, log 11). -/
def Obligations.StartOpensOrRaisesOrIsRefused : Prop :=
  (∀ s : State, s.phase = .idle →
    exec (.cmdStart true) s = .next { s with phase := .count, preIdx := 0, pos := 0 } ∧
    exec (.cmdStart false) s = .next { s with
      phase := .error, errCode := .open, errField := .none, events := s.events ++ [.error .open .none] }) ∧
  (∀ (s : State) (opened : Bool), s.phase ≠ .idle → exec (.cmdStart opened) s = .refused .startOutsideIdle)

/-- Reset, in any phase, gives every register its reset value and empties the log (70_reset_and_hazards.md R210; the values
are the spec's decision D16, log 11). -/
def Obligations.ResetRestoresEveryRegister : Prop :=
  ∀ s : State, ∃ t, exec .cmdReset s = .next t ∧
    t.phase = .idle ∧ t.preIdx = 0 ∧ (∀ j (h : j < 4), t.preBuf[j] = 0) ∧ t.count = 0 ∧ t.framesDone = 0 ∧ t.fsize = 0 ∧
    (∀ i (h : i < 20), t.hdr[i] = 0) ∧ t.bodyIdx = 0 ∧ t.pos = 0 ∧ t.errCode = .none ∧ t.errField = .none ∧
    t.events = [] ∧ t.busy = false ∧ t.done = false ∧ t.error = false ∧ t.streamHeld = false ∧
    ∀ n, n ≤ 7 → statusRegister t n = some 0

/-- Reset leads to the model's first state (70_reset_and_hazards.md R210, R213), but for what is not the block's: the byte
order of the run (20_memory.md R66), the host's further acts and the count of free values (the model's choice, log 9). -/
def Obligations.ResetLeadsToTheModelsFirstState : Prop :=
  ∀ s : State, exec .cmdReset s =
    .next { State.reset with prefixOrder := s.prefixOrder, inbox := s.inbox, draws := s.draws }

/-! ## The reader's transitions -/

/-- Bytes 0 to 2 of a count and of a size are stored; nothing else changes (41_reader.md R143, R148). -/
def Obligations.FirstThreeBytesAreStored : Prop :=
  ∀ (s : State) (b : Byte), s.preIdx.toNat < 3 →
    (s.phase = .count → exec (.recCount (.byte b)) s = .next { s with
      preBuf := s.preBuf.setIfInBounds s.preIdx.toNat b, preIdx := s.preIdx + 1, pos := s.pos + 1 }) ∧
    (s.phase = .size → exec (.recSize (.byte b)) s = .next { s with
      preBuf := s.preBuf.setIfInBounds s.preIdx.toNat b, preIdx := s.preIdx + 1, pos := s.pos + 1 })

/-- An empty stream is a container of no frames (41_reader.md R144). -/
def Obligations.EmptyStreamMeansNoFrames : Prop :=
  ∀ s : State, s.phase = .count → s.preIdx = 0 →
    let t : State := { s with count := 0, events := s.events ++ [.count 0, .done], phase := .done }
    exec .clsCountEmpty s = .next t ∧ exec (.recCount .eos) s = .next t

/-- The fourth byte of the count: the signed value is kept and reported, and the run ends or goes on with the first size
(41_reader.md R145; that a negative count is no error is the spec's decision D5, log 11). -/
def Obligations.CompletedCountEndsOrGoesOn : Prop :=
  ∀ (s : State) (b : Byte), s.phase = .count → s.preIdx = 3 →
    let c := BitVec.ofInt 32 (held s b)
    let written : State := { s with
      pos := s.pos + 1, preBuf := s.preBuf.set 3 b, preIdx := 0, count := c, framesDone := 0,
      events := s.events ++ [.count c] }
    (held s b ≤ 0 →
      exec (.clsCountNone b) s = .next { written with events := s.events ++ [.count c, .done], phase := .done } ∧
      exec (.recCount (.byte b)) s = .next { written with events := s.events ++ [.count c, .done], phase := .done }) ∧
    (0 < held s b →
      exec (.clsCountFrames b) s = .next { written with phase := .size } ∧
      exec (.recCount (.byte b)) s = .next { written with phase := .size })

/-- A count cut short after one to three bytes, or a failed read at any byte, raises FORMAT with field count; nothing else
changes (41_reader.md R146, R147). -/
def Obligations.CutCountRaisesFormat : Prop :=
  ∀ s : State, s.phase = .count →
    let t : State := { s with
      phase := .error, errCode := .format, errField := .count, events := s.events ++ [.error .format .count] }
    (s.preIdx ≠ 0 → exec (.recCount .eos) s = .next t) ∧ exec (.recCount .fail) s = .next t

/-- A size that ends or fails at any byte, the first included, raises FORMAT with field size; nothing else changes
(41_reader.md R149). -/
def Obligations.CutSizeRaisesFormat : Prop :=
  ∀ s : State, s.phase = .size →
    let t : State := { s with
      phase := .error, errCode := .format, errField := .size, events := s.events ++ [.error .format .size] }
    exec (.recSize .eos) s = .next t ∧ exec (.recSize .fail) s = .next t

/-- The fourth byte of a size: above 2048 it raises OVERFLOW, below 20 UNDERSIZE, and otherwise the body begins; the size is
kept in every case, and `hdr` is not touched (41_reader.md R150, R151, R152; the code UNDERSIZE is the spec's decision D6,
log 11). -/
def Obligations.CompletedSizeIsBounded : Prop :=
  ∀ (s : State) (b : Byte), s.phase = .size → s.preIdx = 3 →
    let written : State := { s with
      pos := s.pos + 1, preBuf := s.preBuf.set 3 b, preIdx := 0, fsize := BitVec.ofInt 32 (held s b) }
    let tooLarge : State := { written with
      phase := .error, errCode := .overflow, errField := .size, events := s.events ++ [.error .overflow .size] }
    let tooSmall : State := { written with
      phase := .error, errCode := .undersize, errField := .size, events := s.events ++ [.error .undersize .size] }
    let accepted : State := { written with phase := .body, bodyIdx := 0 }
    (2048 < held s b → exec (.clsSizeOverflow b) s = .next tooLarge ∧ exec (.recSize (.byte b)) s = .next tooLarge) ∧
    (held s b < 20 → exec (.clsSizeUndersize b) s = .next tooSmall ∧ exec (.recSize (.byte b)) s = .next tooSmall) ∧
    (20 ≤ held s b → held s b ≤ 2048 →
      exec (.clsSizeAccept b) s = .next accepted ∧ exec (.recSize (.byte b)) s = .next accepted)

/-- A body byte that is not the last is stored below index 20 and dropped from 20 on; nothing else changes
(41_reader.md R153, R155). -/
def Obligations.BodyBytesAreStoredOrDropped : Prop :=
  ∀ (s : State) (b : Byte), s.phase = .body → (s.bodyIdx.toNat : Int) + 1 < s.fsize.toInt →
    exec (.recBody (.byte b)) s = .next { s with
      pos := s.pos + 1, bodyIdx := s.bodyIdx + 1,
      hdr := if s.bodyIdx.toNat < 20 then s.hdr.setIfInBounds s.bodyIdx.toNat b else s.hdr }

/-- The last body byte reports the frame, decoded from `hdr` as that byte has left it, and ends the run or goes on with the
next size (41_reader.md R156, R157). -/
def Obligations.LastBodyByteReportsTheFrame : Prop :=
  ∀ (s : State) (b : Byte), s.phase = .body → (s.bodyIdx.toNat : Int) + 1 = s.fsize.toInt →
    let h := if s.bodyIdx.toNat < 20 then s.hdr.setIfInBounds s.bodyIdx.toNat b else s.hdr
    let report := Event.frame s.framesDone (decodeHeader h) (protoClass h[9])
    let written : State := { s with
      pos := s.pos + 1, bodyIdx := s.bodyIdx + 1, hdr := h, framesDone := s.framesDone + 1 }
    (s.framesDone + 1 = s.count →
      exec (.recBody (.byte b)) s = .next { written with events := s.events ++ [report, .done], phase := .done }) ∧
    (s.framesDone + 1 ≠ s.count →
      exec (.recBody (.byte b)) s = .next { written with events := s.events ++ [report], phase := .size, preIdx := 0 })

/-- A body that ends or fails at any byte raises FORMAT with field body and reports no frame; nothing else changes
(41_reader.md R154). -/
def Obligations.CutBodyRaisesFormat : Prop :=
  ∀ s : State, s.phase = .body →
    let t : State := { s with
      phase := .error, errCode := .format, errField := .body, events := s.events ++ [.error .format .body] }
    exec (.recBody .eos) s = .next t ∧ exec (.recBody .fail) s = .next t

/-- A record row does what the row selected by the same symbol does, whichever that is (41_reader.md R140; log 1). -/
def Obligations.RecordRowsAgreeWithTheSelectedRow : Prop :=
  ∀ (s : State) (sym : Symbol) (i : Instr), selectRow s.situation sym = some i →
    (s.phase = .count → exec (.recCount sym) s = exec i s) ∧ (s.phase = .size → exec (.recSize sym) s = exec i s) ∧
    (s.phase = .body → exec (.recBody sym) s = exec i s)

/-- Outside the situation of its rule a class row is refused, and so is a record row outside its phase (30_encoding.md R92,
41_reader.md R140; log 1). -/
def Obligations.RowsOutsideTheirSituationAreRefused : Prop :=
  ∀ (s : State) (i : Instr) (b : Byte) (sym : Symbol),
    (i ∈ [.clsCountEmpty, .clsCountNone b, .clsCountFrames b, .clsSizeOverflow b, .clsSizeAccept b, .clsSizeUndersize b] →
      ¬ s.situation.admits i → exec i s = .refused .rowNotSelected) ∧
    (s.phase ≠ .count → exec (.recCount sym) s = .refused .rowNotSelected) ∧
    (s.phase ≠ .size → exec (.recSize sym) s = .refused .rowNotSelected) ∧
    (s.phase ≠ .body → exec (.recBody sym) s = .refused .rowNotSelected)

/-! ## Whole-machine rules -/

/-- A STEP RUNS THE DECODED INSTRUCTION on the state whose next act has been taken (log 2). -/
def Obligations.StepRunsTheDecodedRow : Prop :=
  ∀ (s : State) (act : HostAct) (rest : List HostAct) (i : Instr),
    s.inbox = act :: rest → decodeAct s.situation act = .instr i → step s = exec i { s with inbox := rest }

/-- With nothing from the host the block waits: in IDLE for Start, in a busy phase for an answer, which is stuck and not
final; in DONE and ERROR it is at its end (60_exceptions.md R187, R195; log 2, log 13). -/
def Obligations.NothingFromTheHostMeansWaiting : Prop :=
  ∀ s : State, s.inbox = [] →
    (s.phase = .idle → step s = .fault .awaitingStart) ∧ (s.busy = true → step s = .fault .awaitingAnswer) ∧
    (s.phase = .done ∨ s.phase = .error → step s = .fault .finished)

/-- DONE and ERROR are final, with success and failure: the stream is released, no request, no Start, and only Reset leaves
them (41_reader.md R158, R159, 60_exceptions.md R186, R188; the refusals: log 2, log 13). -/
def Obligations.FinalPhasesAreLeftOnlyByReset : Prop :=
  ∀ s : State, s.phase = .done ∨ s.phase = .error →
    (s.phase = .done → s.completion = some .success) ∧ (s.phase = .error → s.completion = some .failure) ∧
    s.streamHeld = false ∧
    (∀ sym, Takes s (.answer sym) → step s = .refused .noRequest) ∧
    (∀ opened, Takes s (.start opened) → step s = .refused .startOutsideIdle) ∧
    (∀ t, step s = .next t → ¬ Takes s .reset → SameBlock s t)

/-- An answer is refused in a phase that makes no request (10_state.md R35; that it is refused by name is the model's choice,
log 13). -/
def Obligations.AnswersWithoutARequestAreRefused : Prop :=
  ∀ (s : State) (sym : Symbol), s.busy = false → Takes s (.answer sym) → step s = .refused .noRequest

/-- The event log is only ever appended to, but for Reset (10_state.md R33). -/
def Obligations.EventsAreOnlyAppended : Prop :=
  ∀ s t : State, step s = .next t → ¬ Takes s .reset → ∃ new, t.events = s.events ++ new

/-- `pos` counts the bytes consumed: one more on a byte, unchanged on `EOS` and `Fail`, which end the run in the same step; 0
at Start and Reset, and nothing else moves it (20_memory.md R61, 10_state.md R29). -/
def Obligations.PosCountsConsumedBytes : Prop :=
  ∀ s t : State, step s = .next t →
    (∀ b, Takes s (.answer (.byte b)) → t.pos = s.pos + 1) ∧
    (Takes s (.answer .eos) ∨ Takes s (.answer .fail) → t.pos = s.pos ∧ (t.phase = .done ∨ t.phase = .error)) ∧
    (Takes s (.start true) ∨ Takes s .reset → t.pos = 0) ∧
    (t.pos ≠ s.pos → Takes s .reset ∨ Takes s (.start true) ∨ ∃ b, Takes s (.answer (.byte b)))

/-- Taking an error: code and field are recorded and reported, the stream is released, and every other register stands as the
raising step's own rule leaves it. A failed Start, an `EOS` and a `Fail` consume nothing and write no other register; the byte
that completes a rejected size is consumed and keeps `pre_buf[3]`, `pre_idx` = 0 and `fsize` (60_exceptions.md R181, R184,
R185). -/
def Obligations.ErrorEntryRecordsReportsAndReleases : Prop :=
  ∀ s t : State, step s = .next t → s.phase ≠ .error → t.phase = .error →
    (EarlyCause t.errCode t.errField ∨ LateCause t.errCode t.errField) ∧
    t.events = s.events ++ [.error t.errCode t.errField] ∧
    t.busy = false ∧ t.streamHeld = false ∧ t.error = true ∧
    t.hdr = s.hdr ∧ t.count = s.count ∧ t.framesDone = s.framesDone ∧ t.bodyIdx = s.bodyIdx ∧ t.prefixOrder = s.prefixOrder ∧
    (Takes s (.start false) ∨ Takes s (.answer .eos) ∨ Takes s (.answer .fail) ∨ ∃ b, Takes s (.answer (.byte b))) ∧
    (Takes s (.start false) ∨ Takes s (.answer .eos) ∨ Takes s (.answer .fail) →
      t.pos = s.pos ∧ t.preIdx = s.preIdx ∧ t.preBuf = s.preBuf ∧ t.fsize = s.fsize) ∧
    (∀ b, Takes s (.answer (.byte b)) →
      t.pos = s.pos + 1 ∧ t.preIdx = 0 ∧ t.preBuf = s.preBuf.set 3 b ∧ t.fsize = BitVec.ofInt 32 (held s b) ∧
      ((t.errCode = .overflow ∧ 2048 < held s b) ∨ (t.errCode = .undersize ∧ held s b < 20)))

/-- `raise Err(code, field)` itself: four writes and nothing more (60_exceptions.md R184). -/
def Obligations.RaiseErrWritesFourThings : Prop :=
  ∀ (code : ErrCode) (field : ErrField) (s : State), raiseErr code field s = { s with
    errCode := code, errField := field, events := s.events ++ [.error code field], phase := .error }

/-- The error registers are written only on entry to ERROR and are sticky until Reset (10_state.md R30). -/
def Obligations.ErrorRegistersAreSticky : Prop :=
  ∀ s t : State, step s = .next t → ¬ Takes s .reset →
    (t.errCode = s.errCode ∧ t.errField = s.errField) ∨ (s.phase ≠ .error ∧ t.phase = .error)

/-- The byte order is fixed: no step changes it (20_memory.md R66). -/
def Obligations.ByteOrderNeverChanges : Prop :=
  ∀ s t : State, step s = .next t → t.prefixOrder = s.prefixOrder

/-- The header registers are written only by Reset and by a body byte below index 20, which writes one of them
(10_state.md R27, 20_memory.md R60). -/
def Obligations.HeaderRegistersAreWrittenOnlyByBodyBytes : Prop :=
  ∀ s t : State, step s = .next t → t.hdr ≠ s.hdr →
    Takes s .reset ∨
    (s.phase = .body ∧ s.bodyIdx.toNat < 20 ∧
      ∃ b, Takes s (.answer (.byte b)) ∧ t.hdr = s.hdr.setIfInBounds s.bodyIdx.toNat b)

/-- `count` changes only when the count has been read, or at Reset (10_state.md R24). -/
def Obligations.CountIsWrittenOnlyWhenItIsRead : Prop :=
  ∀ s t : State, step s = .next t → t.count ≠ s.count →
    Takes s .reset ∨ (s.phase = .count ∧ (t.phase = .size ∨ t.phase = .done))

/-- In a state that meets the invariant, `frames_done` goes up by one exactly when a `Frame` event with its old value is
reported, and is unchanged otherwise, but for Reset (10_state.md R25, 41_reader.md R156). -/
def Obligations.FramesDoneCountsReportedFrames : Prop :=
  ∀ s t : State, s.Inv → step s = .next t → ¬ Takes s .reset →
    (t.framesDone = s.framesDone ∧ ∀ k d p new, t.events ≠ s.events ++ .frame k d p :: new) ∨
    (t.framesDone = s.framesDone + 1 ∧ t.framesDone.toNat = s.framesDone.toNat + 1 ∧ s.phase = .body ∧
      ∃ d new, t.events = s.events ++ .frame s.framesDone d (protoClass d.protocol) :: new)

/-- The only ways between phases (41_reader.md R140 to R159, 70_reset_and_hazards.md R210). -/
def Obligations.PhasesFollowTheSequence : Prop :=
  ∀ s t : State, step s = .next t → t.phase ≠ s.phase →
    (t.phase = .idle ∧ Takes s .reset) ∨
    (s.phase = .idle ∧ (t.phase = .count ∨ t.phase = .error)) ∨
    (s.phase = .count ∧ (t.phase = .size ∨ t.phase = .done ∨ t.phase = .error)) ∨
    (s.phase = .size ∧ (t.phase = .body ∨ t.phase = .error)) ∨
    (s.phase = .body ∧ (t.phase = .size ∨ t.phase = .done ∨ t.phase = .error))

/-- AN INVARIANT THAT EVERY STEP KEEPS: the invariants of 10_state.md R43, and the shape of the event log of 41_reader.md
R163. -/
def Obligations.EveryStepKeepsTheInvariant : Prop :=
  ∀ s t : State, s.Inv → step s = .next t → t.Inv

/-- The invariant holds after reset, in either byte order and whatever the host will do. -/
def Obligations.InvariantHoldsAfterReset : Prop :=
  ∀ (order : PrefixOrder) (acts : List HostAct),
    ({ State.reset with prefixOrder := order, inbox := acts } : State).Inv

/-- What the invariant says of the log: as many `Frame` events as `frames_done` says, and an `Error` or `Done` only as the
last entry (10_state.md R43). -/
def Obligations.InvariantBoundsTheEventLog : Prop :=
  ∀ s : State, s.Inv →
    (s.events.filter (fun e => match e with | .frame _ _ _ => true | _ => false)).length = s.framesDone.toNat ∧
    ∀ pre e post, s.events = pre ++ e :: post → (e = .done ∨ ∃ code field, e = .error code field) → post = []

/-- In a busy phase that meets the invariant, every answer of the host is taken: no data stops the reader
(41_reader.md R140, 30_encoding.md R87). -/
def Obligations.BusyReaderTakesEveryAnswer : Prop :=
  ∀ (s : State) (sym : Symbol), s.Inv → s.busy = true → Takes s (.answer sym) → ∃ t, step s = .next t

/-- Operations asked for on their own and reads change no register of the block (10_state.md R40, 20_memory.md R70,
40_decoder.md R116; log 3). -/
def Obligations.OwnOperationsAndReadsHaveNoSideEffect : Prop :=
  ∀ s t : State, step s = .next t →
    ((∃ bytes, Takes s (.word bytes)) ∨ (∃ sel src, Takes s (.header sel src)) ∨ Takes s .readClass ∨
      ∃ n, Takes s (.readReg n)) → SameBlock s t

/-- The port's window opens when a frame is reported, closes at the next body byte that reports none and at Reset, and no
other step moves it (70_reset_and_hazards.md R217; log 6). -/
def Obligations.DecWindowFollowsTheFrames : Prop :=
  ∀ s t : State, s.Inv → step s = .next t →
    ((∃ k d p new, t.events = s.events ++ .frame k d p :: new) → DecWindow t) ∧
    (s.phase = .body → (∃ b, Takes s (.answer (.byte b))) → t.events = s.events → ¬ DecWindow t) ∧
    (Takes s .reset → ¬ DecWindow t) ∧
    (¬ Takes s .reset → ¬ (s.phase = .body ∧ ∃ b, Takes s (.answer (.byte b))) → (DecWindow t ↔ DecWindow s))

/-! ## Status registers -/

/-- The fields of STATUS; its reserved bits read 0, and it is 0 after reset (10_state.md R39). -/
def Obligations.StatusFieldsStandWhereTheMapSays : Prop :=
  (∀ s : State,
    (statusWord s).extractLsb' 0 3 = phaseBits s.phase ∧ (statusWord s).extractLsb' 3 3 = errCodeBits s.errCode ∧
    (statusWord s).extractLsb' 6 2 = errFieldBits s.errField ∧ (statusWord s).extractLsb' 8 2 = s.preIdx ∧
    (statusWord s).getLsbD 10 = s.busy ∧ (statusWord s).getLsbD 11 = s.done ∧ (statusWord s).getLsbD 12 = s.error ∧
    (statusWord s).getLsbD 13 = s.streamHeld ∧ (statusWord s).extractLsb' 14 18 = 0) ∧
  statusWord State.reset = 0

/-- Reads of the register map: the eight registers, 0 from the reserved numbers, a refusal above 15, and no side effect;
every write is refused (10_state.md R38, R40, R41; log 3). -/
def Obligations.RegisterMapReadsAndRefuses : Prop :=
  ∀ (s : State) (rest : List HostAct),
    (∀ n, s.inbox = .readReg n :: rest →
      let reads := fun (v : Word) => step s = .next { s with inbox := rest, out := .register v }
      (n = 0 → reads (statusWord s)) ∧ (n = 1 → reads s.count) ∧ (n = 2 → reads s.framesDone) ∧ (n = 3 → reads s.fsize) ∧
      (n = 4 → reads (BitVec.ofNat 32 s.bodyIdx.toNat)) ∧ (n = 5 → reads (BitVec.ofNat 32 s.pos.toNat)) ∧
      (n = 6 → reads (BitVec.ofNat 32 (s.pos.toNat / 4294967296))) ∧
      (n = 7 → reads (BitVec.ofNat 32 (s.preBuf[0].toNat + 256 * s.preBuf[1].toNat + 65536 * s.preBuf[2].toNat +
        16777216 * s.preBuf[3].toNat))) ∧
      (8 ≤ n → n ≤ 15 → reads 0) ∧ (15 < n → step s = .refused .registerNumber)) ∧
    (∀ n v, s.inbox = .writeReg n v :: rest → step s = .refused .registerWrite)

/-- The flags follow the phase, and none is set after reset (10_state.md R32; `stream_held` is R42, which the spec derives). -/
def Obligations.FlagsFollowThePhase : Prop :=
  (∀ s : State,
    (s.busy = true ↔ s.phase = .count ∨ s.phase = .size ∨ s.phase = .body) ∧ (s.done = true ↔ s.phase = .done) ∧
    (s.error = true ↔ s.phase = .error) ∧
    (s.streamHeld = true ↔ s.phase = .count ∨ s.phase = .size ∨ s.phase = .body)) ∧
  State.reset.busy = false ∧ State.reset.done = false ∧ State.reset.error = false ∧ State.reset.streamHeld = false

/-! ## Runs -/

/-- `readFrameCount`: from COUNT, the four bytes of a count, in either byte order, are read in four steps
(41_reader.md R160). -/
def Obligations.CountIsReadInFourSteps : Prop :=
  ∀ (s : State) (c : Word) (rest : List HostAct), s.phase = .count → s.preIdx = 0 →
    s.inbox = answers (wordBytes s.prefixOrder c) ++ rest →
    ∃ t : State, Host.Core.run Sys2Proof.core 4 s = .next t ∧
      t.count = c ∧ t.pos = s.pos + 4 ∧ t.inbox = rest ∧ t.preIdx = 0 ∧ t.framesDone = 0 ∧
      (0 < c.toInt → t.phase = .size ∧ t.events = s.events ++ [.count c]) ∧
      (c.toInt ≤ 0 → t.phase = .done ∧ t.events = s.events ++ [.count c, .done])

/-- `nextFrame`: from SIZE, a whole frame, whatever its bytes, is read in `4 + fsize` steps, and its `Frame` event carries the
decode of its own first twenty bytes (41_reader.md R161, R156, R157). -/
def Obligations.FrameIsReadInFourPlusSizeSteps : Prop :=
  ∀ (s : State) (body : List Byte) (rest : List HostAct), s.phase = .size → s.preIdx = 0 →
    20 ≤ body.length → body.length ≤ 2048 → s.inbox = answers (frameBytes s.prefixOrder body) ++ rest →
    ∃ t : State, Host.Core.run Sys2Proof.core (4 + body.length) s = .next t ∧
      t.pos = s.pos + BitVec.ofNat 64 (4 + body.length) ∧ t.inbox = rest ∧ t.framesDone = s.framesDone + 1 ∧
      t.fsize = BitVec.ofNat 32 body.length ∧ t.bodyIdx = BitVec.ofNat 12 body.length ∧ t.hdr = bodyHeader body ∧
      (s.framesDone + 1 = s.count → t.phase = .done ∧ t.events = s.events ++
        [.frame s.framesDone (decodeHeader (bodyHeader body)) (protoClass (body.getD 9 0)), .done]) ∧
      (s.framesDone + 1 ≠ s.count → t.phase = .size ∧ t.preIdx = 0 ∧ t.count = s.count ∧ t.events = s.events ++
        [.frame s.framesDone (decodeHeader (bodyHeader body)) (protoClass (body.getD 9 0))])

/-- No byte of an earlier frame reaches a decode: two states that differ only in `hdr` are the same state once a frame has been
read (10_state.md R27). -/
def Obligations.EarlierHeaderBytesLeakIntoNoFrame : Prop :=
  ∀ (s : State) (h : HeaderBytes) (body : List Byte) (rest : List HostAct), s.phase = .size → s.preIdx = 0 →
    20 ≤ body.length → body.length ≤ 2048 → s.inbox = answers (frameBytes s.prefixOrder body) ++ rest →
    ∃ t : State, Host.Core.run Sys2Proof.core (4 + body.length) s = .next t ∧
      Host.Core.run Sys2Proof.core (4 + body.length) ({ s with hdr := h } : State) = .next t

/-- A whole container of the grammar of 30_encoding.md R80, in either byte order, is read to DONE in one step a byte after
Start, reporting its count, each frame's decoded header in order, and `Done`; what follows it is not requested
(41_reader.md R158, R162, R163). -/
def Obligations.ContainerIsReadToDone : Prop :=
  ∀ (order : PrefixOrder) (bodies : List (List Byte)) (rest : List HostAct), bodies.length < 2147483648 →
    (∀ body ∈ bodies, 20 ≤ body.length ∧ body.length ≤ 2048) →
    ∃ t : State,
      Host.Core.run Sys2Proof.core (1 + (containerBytes order bodies).length)
        (boot order (answers (containerBytes order bodies) ++ rest)) = .next t ∧
      t.phase = .done ∧ t.inbox = rest ∧ t.pos = BitVec.ofNat 64 (containerBytes order bodies).length ∧
      t.framesDone = BitVec.ofNat 32 bodies.length ∧
      t.events = .count (BitVec.ofNat 32 bodies.length) :: (frameEvents 0 bodies ++ [.done])
end

