-- ==== Sys2Proof/Laws/Operands.lean ====
section
/-! SUPPORT. What the extraction shapes and byte orders compute, in plain arithmetic. -/

namespace Sys2Proof.Machine

/-- The first stream byte is the high half (40_decoder.md R100). -/
theorem merge16_eq_append (b1 b2 : Byte) : merge16 b1 b2 = b1 ++ b2 := by
  apply BitVec.eq_of_getLsbD_eq
  intro i hi
  simp only [merge16, BitVec.getLsbD_or, BitVec.getLsbD_shiftLeft, BitVec.getLsbD_setWidth, BitVec.getLsbD_append,
    BitVec.truncate_eq_setWidth]
  by_cases h8 : i < 8
  · simp [h8, hi]
  · have hb : b2.getLsbD i = false := BitVec.getLsbD_of_ge b2 i (by omega)
    have h16 : i - 8 < 16 := by omega
    simp [h8, hi, hb, h16]

theorem append_byte_toNat {w : Nat} (x : BitVec w) (b : Byte) : (x ++ b).toNat = 256 * x.toNat + b.toNat := by
  rw [BitVec.toNat_append, ← Nat.shiftLeft_add_eq_or_of_lt b.isLt, Nat.shiftLeft_eq]
  omega

theorem merge16_toNat (b1 b2 : Byte) : (merge16 b1 b2).toNat = 256 * b1.toNat + b2.toNat := by
  rw [merge16_eq_append, append_byte_toNat]

/-- Bit `j` of a byte `m` places above the last one. -/
theorem append_byte_succ {w : Nat} (x : BitVec w) (y : Byte) (m j : Nat) :
    (x ++ y).getLsbD (8 * (m + 1) + j) = x.getLsbD (8 * m + j) := by
  rw [BitVec.getLsbD_append, if_neg (by omega), show 8 * (m + 1) + j - 8 = 8 * m + j by omega]

/-- Bit `j` of the last byte. -/
theorem append_byte_zero {w : Nat} (x : BitVec w) (y : Byte) (j : Nat) (h : j < 8) :
    (x ++ y).getLsbD (8 * 0 + j) = y.getLsbD j := by
  rw [BitVec.getLsbD_append, if_pos (by omega), show 8 * 0 + j = j by omega]

/-- Bit `j` of byte `k` of the header word (30_encoding.md R84). -/
theorem headerWord_getLsbD (h : HeaderBytes) (k j : Nat) (hk : k < 20) (hj : j < 8) :
    (headerWord h).getLsbD (8 * (19 - k) + j) = h[k].getLsbD j := by
  have : k ∈ List.range 20 := by simpa using hk
  simp only [List.range, List.range.loop, List.mem_cons, List.not_mem_nil, or_false] at this
  unfold headerWord
  rcases this with rfl | rfl | rfl | rfl | rfl | rfl | rfl | rfl | rfl | rfl | rfl | rfl | rfl | rfl | rfl | rfl | rfl |
    rfl | rfl | rfl
  all_goals
    simp only [Nat.reduceSub]
    repeat rw [append_byte_succ]
    first
    | rw [append_byte_zero _ _ _ hj]
    | rw [Nat.mul_zero, Nat.zero_add]

/-- The packed address by its weights (40_decoder.md R117). -/
theorem packedAddress_eq (a : Vector Byte 4) : (packedAddress a).toNat =
    256 * (256 * (256 * a[0].toNat + a[1].toNat) + a[2].toNat) + a[3].toNat := by
  simp only [packedAddress, append_byte_toNat]

theorem headerOfBytes_of_length (bytes : List Byte) (h : 20 ≤ bytes.length) :
    headerOfBytes bytes = some (bodyHeader bytes) := by
  have hl : (bytes.take 20).length = 20 := by simp [h]
  simp only [headerOfBytes, hl, dite_true, Option.some.injEq]
  ext i hi
  have : i < bytes.length := by omega
  simp [bodyHeader, List.getD_eq_getElem?_getD, this]

theorem headerOfBytes_short (bytes : List Byte) (h : bytes.length < 20) : headerOfBytes bytes = none := by
  have hl : ¬ (bytes.take 20).length = 20 := by rw [List.length_take]; omega
  exact dif_neg hl

@[simp] theorem bodyHeader_getElem (bytes : List Byte) (k : Nat) (h : k < 20) : (bodyHeader bytes)[k] = bytes.getD k 0 := by
  simp [bodyHeader]

theorem bodyHeader_toList (h : HeaderBytes) : bodyHeader h.toList = h := by
  ext i hi
  simp [hi]

theorem headerOfBytes_toList (h : HeaderBytes) : headerOfBytes h.toList = some h := by
  rw [headerOfBytes_of_length _ (by simp), bodyHeader_toList]

theorem headerWellFormed_iff (bytes : List Byte) : (HdrSrc.given bytes).wellFormed = true ↔ 20 ≤ bytes.length := by
  rw [HdrSrc.wellFormed, decide_eq_true_iff]

theorem countIsNone_iff (c : Word) : countIsNone c = true ↔ c.toInt ≤ 0 := decide_eq_true_iff

theorem sizeOverflows_iff (n : Word) : sizeOverflows n = true ↔ 2048 < n.toInt := by
  rw [sizeOverflows, decide_eq_true_iff]

theorem sizeUndersize_iff (n : Word) : sizeUndersize n = true ↔ n.toInt < 20 := by
  rw [sizeUndersize, decide_eq_true_iff]; rfl

/-- The four bytes of a word, stored in stream order, assemble to that word in both byte orders (20_memory.md R64). -/
theorem assemble32_wordBytes (order : PrefixOrder) (w : Word) :
    ∃ p0 p1 p2 p3, wordBytes order w = [p0, p1, p2, p3] ∧ assemble32 order p0 p1 p2 p3 = w := by
  cases order <;> refine ⟨_, _, _, _, rfl, ?_⟩ <;> apply BitVec.eq_of_getLsbD_eq <;> intro i hi <;>
    simp only [assemble32, BitVec.getLsbD_append, BitVec.getLsbD_extractLsb']
  all_goals
    have h1 : ¬ i < 8 → 8 + (i - 8) = i := by omega
    have h2 : ¬ i - 8 < 8 → ¬ i < 8 → 16 + (i - (8 + 8)) = i := by omega
    have h3 : ¬ i - 8 - 8 < 8 → ¬ i - 8 < 8 → ¬ i < 8 → 24 + (i - (8 + 8 + 8)) = i := by omega
    have h4 : i - (8 + 8 + 8) < 8 := by omega
    split
    · simp [*]
    · split
      · simp [*]
      · split
        · simp_all [Nat.sub_sub]
        · simp_all [Nat.sub_sub]

theorem wordBytes_length (order : PrefixOrder) (w : Word) : (wordBytes order w).length = 4 := by cases order <;> rfl

/-- Appending one more frame keeps the numbering (41_reader.md R163). -/
theorem FramesFrom_snoc {k : Nat} {frames : List Event} (d : DecodedHeader) (h : FramesFrom k frames) :
    FramesFrom k (frames ++ [.frame (BitVec.ofNat 32 (k + frames.length)) d (protoClass d.protocol)]) := by
  induction frames generalizing k with
  | nil => exact ⟨⟨d, rfl⟩, trivial⟩
  | cons e rest ih =>
    refine ⟨h.1, ?_⟩
    have := ih h.2
    simpa [Nat.add_assoc, Nat.add_comm 1] using this

end Sys2Proof.Machine
end

