-- ==== Sys2Proof/Laws/State.lean ====
section
/-! SUPPORT. What each shared operation makes of each field of State: one lemma per field per operation, true by unfolding. -/

namespace Sys2Proof.Machine

/-! emit -/

@[simp] theorem emit_phase (e : Event) (s : State) : (emit e s).phase = s.phase := rfl
@[simp] theorem emit_preIdx (e : Event) (s : State) : (emit e s).preIdx = s.preIdx := rfl
@[simp] theorem emit_preBuf (e : Event) (s : State) : (emit e s).preBuf = s.preBuf := rfl
@[simp] theorem emit_count (e : Event) (s : State) : (emit e s).count = s.count := rfl
@[simp] theorem emit_framesDone (e : Event) (s : State) : (emit e s).framesDone = s.framesDone := rfl
@[simp] theorem emit_fsize (e : Event) (s : State) : (emit e s).fsize = s.fsize := rfl
@[simp] theorem emit_hdr (e : Event) (s : State) : (emit e s).hdr = s.hdr := rfl
@[simp] theorem emit_bodyIdx (e : Event) (s : State) : (emit e s).bodyIdx = s.bodyIdx := rfl
@[simp] theorem emit_pos (e : Event) (s : State) : (emit e s).pos = s.pos := rfl
@[simp] theorem emit_errCode (e : Event) (s : State) : (emit e s).errCode = s.errCode := rfl
@[simp] theorem emit_errField (e : Event) (s : State) : (emit e s).errField = s.errField := rfl
@[simp] theorem emit_events (e : Event) (s : State) : (emit e s).events = s.events ++ [e] := rfl
@[simp] theorem emit_prefixOrder (e : Event) (s : State) : (emit e s).prefixOrder = s.prefixOrder := rfl
@[simp] theorem emit_inbox (e : Event) (s : State) : (emit e s).inbox = s.inbox := rfl
@[simp] theorem emit_out (e : Event) (s : State) : (emit e s).out = s.out := rfl
@[simp] theorem emit_draws (e : Event) (s : State) : (emit e s).draws = s.draws := rfl

/-! enter -/

@[simp] theorem enter_phase (p : Phase) (s : State) : (enter p s).phase = p := rfl
@[simp] theorem enter_preIdx (p : Phase) (s : State) : (enter p s).preIdx = s.preIdx := rfl
@[simp] theorem enter_preBuf (p : Phase) (s : State) : (enter p s).preBuf = s.preBuf := rfl
@[simp] theorem enter_count (p : Phase) (s : State) : (enter p s).count = s.count := rfl
@[simp] theorem enter_framesDone (p : Phase) (s : State) : (enter p s).framesDone = s.framesDone := rfl
@[simp] theorem enter_fsize (p : Phase) (s : State) : (enter p s).fsize = s.fsize := rfl
@[simp] theorem enter_hdr (p : Phase) (s : State) : (enter p s).hdr = s.hdr := rfl
@[simp] theorem enter_bodyIdx (p : Phase) (s : State) : (enter p s).bodyIdx = s.bodyIdx := rfl
@[simp] theorem enter_pos (p : Phase) (s : State) : (enter p s).pos = s.pos := rfl
@[simp] theorem enter_errCode (p : Phase) (s : State) : (enter p s).errCode = s.errCode := rfl
@[simp] theorem enter_errField (p : Phase) (s : State) : (enter p s).errField = s.errField := rfl
@[simp] theorem enter_events (p : Phase) (s : State) : (enter p s).events = s.events := rfl
@[simp] theorem enter_prefixOrder (p : Phase) (s : State) : (enter p s).prefixOrder = s.prefixOrder := rfl
@[simp] theorem enter_inbox (p : Phase) (s : State) : (enter p s).inbox = s.inbox := rfl
@[simp] theorem enter_out (p : Phase) (s : State) : (enter p s).out = s.out := rfl
@[simp] theorem enter_draws (p : Phase) (s : State) : (enter p s).draws = s.draws := rfl

/-! consumeByte -/

@[simp] theorem consumeByte_phase (s : State) : (consumeByte s).phase = s.phase := rfl
@[simp] theorem consumeByte_preIdx (s : State) : (consumeByte s).preIdx = s.preIdx := rfl
@[simp] theorem consumeByte_preBuf (s : State) : (consumeByte s).preBuf = s.preBuf := rfl
@[simp] theorem consumeByte_count (s : State) : (consumeByte s).count = s.count := rfl
@[simp] theorem consumeByte_framesDone (s : State) : (consumeByte s).framesDone = s.framesDone := rfl
@[simp] theorem consumeByte_fsize (s : State) : (consumeByte s).fsize = s.fsize := rfl
@[simp] theorem consumeByte_hdr (s : State) : (consumeByte s).hdr = s.hdr := rfl
@[simp] theorem consumeByte_bodyIdx (s : State) : (consumeByte s).bodyIdx = s.bodyIdx := rfl
@[simp] theorem consumeByte_pos (s : State) : (consumeByte s).pos = s.pos + 1 := rfl
@[simp] theorem consumeByte_errCode (s : State) : (consumeByte s).errCode = s.errCode := rfl
@[simp] theorem consumeByte_errField (s : State) : (consumeByte s).errField = s.errField := rfl
@[simp] theorem consumeByte_events (s : State) : (consumeByte s).events = s.events := rfl
@[simp] theorem consumeByte_prefixOrder (s : State) : (consumeByte s).prefixOrder = s.prefixOrder := rfl
@[simp] theorem consumeByte_inbox (s : State) : (consumeByte s).inbox = s.inbox := rfl
@[simp] theorem consumeByte_out (s : State) : (consumeByte s).out = s.out := rfl
@[simp] theorem consumeByte_draws (s : State) : (consumeByte s).draws = s.draws := rfl

/-! answerWith -/

@[simp] theorem answerWith_phase (v : OutVal) (s : State) : (answerWith v s).phase = s.phase := rfl
@[simp] theorem answerWith_preIdx (v : OutVal) (s : State) : (answerWith v s).preIdx = s.preIdx := rfl
@[simp] theorem answerWith_preBuf (v : OutVal) (s : State) : (answerWith v s).preBuf = s.preBuf := rfl
@[simp] theorem answerWith_count (v : OutVal) (s : State) : (answerWith v s).count = s.count := rfl
@[simp] theorem answerWith_framesDone (v : OutVal) (s : State) : (answerWith v s).framesDone = s.framesDone := rfl
@[simp] theorem answerWith_fsize (v : OutVal) (s : State) : (answerWith v s).fsize = s.fsize := rfl
@[simp] theorem answerWith_hdr (v : OutVal) (s : State) : (answerWith v s).hdr = s.hdr := rfl
@[simp] theorem answerWith_bodyIdx (v : OutVal) (s : State) : (answerWith v s).bodyIdx = s.bodyIdx := rfl
@[simp] theorem answerWith_pos (v : OutVal) (s : State) : (answerWith v s).pos = s.pos := rfl
@[simp] theorem answerWith_errCode (v : OutVal) (s : State) : (answerWith v s).errCode = s.errCode := rfl
@[simp] theorem answerWith_errField (v : OutVal) (s : State) : (answerWith v s).errField = s.errField := rfl
@[simp] theorem answerWith_events (v : OutVal) (s : State) : (answerWith v s).events = s.events := rfl
@[simp] theorem answerWith_prefixOrder (v : OutVal) (s : State) : (answerWith v s).prefixOrder = s.prefixOrder := rfl
@[simp] theorem answerWith_inbox (v : OutVal) (s : State) : (answerWith v s).inbox = s.inbox := rfl
@[simp] theorem answerWith_out (v : OutVal) (s : State) : (answerWith v s).out = v := rfl
@[simp] theorem answerWith_draws (v : OutVal) (s : State) : (answerWith v s).draws = s.draws := rfl

/-! raiseErr -/

@[simp] theorem raiseErr_phase (code : ErrCode) (field : ErrField) (s : State) : (raiseErr code field s).phase = .error := rfl
@[simp] theorem raiseErr_preIdx (code : ErrCode) (field : ErrField) (s : State) : (raiseErr code field s).preIdx = s.preIdx := rfl
@[simp] theorem raiseErr_preBuf (code : ErrCode) (field : ErrField) (s : State) : (raiseErr code field s).preBuf = s.preBuf := rfl
@[simp] theorem raiseErr_count (code : ErrCode) (field : ErrField) (s : State) : (raiseErr code field s).count = s.count := rfl
@[simp] theorem raiseErr_framesDone (code : ErrCode) (field : ErrField) (s : State) : (raiseErr code field s).framesDone = s.framesDone := rfl
@[simp] theorem raiseErr_fsize (code : ErrCode) (field : ErrField) (s : State) : (raiseErr code field s).fsize = s.fsize := rfl
@[simp] theorem raiseErr_hdr (code : ErrCode) (field : ErrField) (s : State) : (raiseErr code field s).hdr = s.hdr := rfl
@[simp] theorem raiseErr_bodyIdx (code : ErrCode) (field : ErrField) (s : State) : (raiseErr code field s).bodyIdx = s.bodyIdx := rfl
@[simp] theorem raiseErr_pos (code : ErrCode) (field : ErrField) (s : State) : (raiseErr code field s).pos = s.pos := rfl
@[simp] theorem raiseErr_errCode (code : ErrCode) (field : ErrField) (s : State) : (raiseErr code field s).errCode = code := rfl
@[simp] theorem raiseErr_errField (code : ErrCode) (field : ErrField) (s : State) : (raiseErr code field s).errField = field := rfl
@[simp] theorem raiseErr_events (code : ErrCode) (field : ErrField) (s : State) : (raiseErr code field s).events = s.events ++ [.error code field] := rfl
@[simp] theorem raiseErr_prefixOrder (code : ErrCode) (field : ErrField) (s : State) : (raiseErr code field s).prefixOrder = s.prefixOrder := rfl
@[simp] theorem raiseErr_inbox (code : ErrCode) (field : ErrField) (s : State) : (raiseErr code field s).inbox = s.inbox := rfl
@[simp] theorem raiseErr_out (code : ErrCode) (field : ErrField) (s : State) : (raiseErr code field s).out = s.out := rfl
@[simp] theorem raiseErr_draws (code : ErrCode) (field : ErrField) (s : State) : (raiseErr code field s).draws = s.draws := rfl

/-! finish -/

@[simp] theorem finish_phase (s : State) : (finish s).phase = .done := rfl
@[simp] theorem finish_preIdx (s : State) : (finish s).preIdx = s.preIdx := rfl
@[simp] theorem finish_preBuf (s : State) : (finish s).preBuf = s.preBuf := rfl
@[simp] theorem finish_count (s : State) : (finish s).count = s.count := rfl
@[simp] theorem finish_framesDone (s : State) : (finish s).framesDone = s.framesDone := rfl
@[simp] theorem finish_fsize (s : State) : (finish s).fsize = s.fsize := rfl
@[simp] theorem finish_hdr (s : State) : (finish s).hdr = s.hdr := rfl
@[simp] theorem finish_bodyIdx (s : State) : (finish s).bodyIdx = s.bodyIdx := rfl
@[simp] theorem finish_pos (s : State) : (finish s).pos = s.pos := rfl
@[simp] theorem finish_errCode (s : State) : (finish s).errCode = s.errCode := rfl
@[simp] theorem finish_errField (s : State) : (finish s).errField = s.errField := rfl
@[simp] theorem finish_events (s : State) : (finish s).events = s.events ++ [.done] := rfl
@[simp] theorem finish_prefixOrder (s : State) : (finish s).prefixOrder = s.prefixOrder := rfl
@[simp] theorem finish_inbox (s : State) : (finish s).inbox = s.inbox := rfl
@[simp] theorem finish_out (s : State) : (finish s).out = s.out := rfl
@[simp] theorem finish_draws (s : State) : (finish s).draws = s.draws := rfl

/-! storePrefixByte -/

@[simp] theorem storePrefixByte_phase (b : Byte) (s : State) : (storePrefixByte b s).phase = s.phase := rfl
@[simp] theorem storePrefixByte_preIdx (b : Byte) (s : State) : (storePrefixByte b s).preIdx = s.preIdx + 1 := rfl
@[simp] theorem storePrefixByte_preBuf (b : Byte) (s : State) : (storePrefixByte b s).preBuf = s.preBuf.setIfInBounds s.preIdx.toNat b := rfl
@[simp] theorem storePrefixByte_count (b : Byte) (s : State) : (storePrefixByte b s).count = s.count := rfl
@[simp] theorem storePrefixByte_framesDone (b : Byte) (s : State) : (storePrefixByte b s).framesDone = s.framesDone := rfl
@[simp] theorem storePrefixByte_fsize (b : Byte) (s : State) : (storePrefixByte b s).fsize = s.fsize := rfl
@[simp] theorem storePrefixByte_hdr (b : Byte) (s : State) : (storePrefixByte b s).hdr = s.hdr := rfl
@[simp] theorem storePrefixByte_bodyIdx (b : Byte) (s : State) : (storePrefixByte b s).bodyIdx = s.bodyIdx := rfl
@[simp] theorem storePrefixByte_pos (b : Byte) (s : State) : (storePrefixByte b s).pos = s.pos + 1 := rfl
@[simp] theorem storePrefixByte_errCode (b : Byte) (s : State) : (storePrefixByte b s).errCode = s.errCode := rfl
@[simp] theorem storePrefixByte_errField (b : Byte) (s : State) : (storePrefixByte b s).errField = s.errField := rfl
@[simp] theorem storePrefixByte_events (b : Byte) (s : State) : (storePrefixByte b s).events = s.events := rfl
@[simp] theorem storePrefixByte_prefixOrder (b : Byte) (s : State) : (storePrefixByte b s).prefixOrder = s.prefixOrder := rfl
@[simp] theorem storePrefixByte_inbox (b : Byte) (s : State) : (storePrefixByte b s).inbox = s.inbox := rfl
@[simp] theorem storePrefixByte_out (b : Byte) (s : State) : (storePrefixByte b s).out = s.out := rfl
@[simp] theorem storePrefixByte_draws (b : Byte) (s : State) : (storePrefixByte b s).draws = s.draws := rfl

/-! completeCount -/

@[simp] theorem completeCount_phase (b : Byte) (s : State) : (completeCount b s).phase = s.phase := rfl
@[simp] theorem completeCount_preIdx (b : Byte) (s : State) : (completeCount b s).preIdx = 0 := rfl
@[simp] theorem completeCount_preBuf (b : Byte) (s : State) : (completeCount b s).preBuf = s.preBuf.set 3 b := rfl
@[simp] theorem completeCount_count (b : Byte) (s : State) : (completeCount b s).count = s.completed b := rfl
@[simp] theorem completeCount_framesDone (b : Byte) (s : State) : (completeCount b s).framesDone = 0 := rfl
@[simp] theorem completeCount_fsize (b : Byte) (s : State) : (completeCount b s).fsize = s.fsize := rfl
@[simp] theorem completeCount_hdr (b : Byte) (s : State) : (completeCount b s).hdr = s.hdr := rfl
@[simp] theorem completeCount_bodyIdx (b : Byte) (s : State) : (completeCount b s).bodyIdx = s.bodyIdx := rfl
@[simp] theorem completeCount_pos (b : Byte) (s : State) : (completeCount b s).pos = s.pos + 1 := rfl
@[simp] theorem completeCount_errCode (b : Byte) (s : State) : (completeCount b s).errCode = s.errCode := rfl
@[simp] theorem completeCount_errField (b : Byte) (s : State) : (completeCount b s).errField = s.errField := rfl
@[simp] theorem completeCount_events (b : Byte) (s : State) : (completeCount b s).events = s.events ++ [.count (s.completed b)] := rfl
@[simp] theorem completeCount_prefixOrder (b : Byte) (s : State) : (completeCount b s).prefixOrder = s.prefixOrder := rfl
@[simp] theorem completeCount_inbox (b : Byte) (s : State) : (completeCount b s).inbox = s.inbox := rfl
@[simp] theorem completeCount_out (b : Byte) (s : State) : (completeCount b s).out = s.out := rfl
@[simp] theorem completeCount_draws (b : Byte) (s : State) : (completeCount b s).draws = s.draws := rfl

/-! emptyCount -/

@[simp] theorem emptyCount_phase (s : State) : (emptyCount s).phase = .done := rfl
@[simp] theorem emptyCount_preIdx (s : State) : (emptyCount s).preIdx = s.preIdx := rfl
@[simp] theorem emptyCount_preBuf (s : State) : (emptyCount s).preBuf = s.preBuf := rfl
@[simp] theorem emptyCount_count (s : State) : (emptyCount s).count = 0 := rfl
@[simp] theorem emptyCount_framesDone (s : State) : (emptyCount s).framesDone = s.framesDone := rfl
@[simp] theorem emptyCount_fsize (s : State) : (emptyCount s).fsize = s.fsize := rfl
@[simp] theorem emptyCount_hdr (s : State) : (emptyCount s).hdr = s.hdr := rfl
@[simp] theorem emptyCount_bodyIdx (s : State) : (emptyCount s).bodyIdx = s.bodyIdx := rfl
@[simp] theorem emptyCount_pos (s : State) : (emptyCount s).pos = s.pos := rfl
@[simp] theorem emptyCount_errCode (s : State) : (emptyCount s).errCode = s.errCode := rfl
@[simp] theorem emptyCount_errField (s : State) : (emptyCount s).errField = s.errField := rfl
@[simp] theorem emptyCount_events (s : State) : (emptyCount s).events = s.events ++ [.count 0] ++ [.done] := rfl
@[simp] theorem emptyCount_prefixOrder (s : State) : (emptyCount s).prefixOrder = s.prefixOrder := rfl
@[simp] theorem emptyCount_inbox (s : State) : (emptyCount s).inbox = s.inbox := rfl
@[simp] theorem emptyCount_out (s : State) : (emptyCount s).out = s.out := rfl
@[simp] theorem emptyCount_draws (s : State) : (emptyCount s).draws = s.draws := rfl

/-! completeSize -/

@[simp] theorem completeSize_phase (b : Byte) (s : State) : (completeSize b s).phase = s.phase := rfl
@[simp] theorem completeSize_preIdx (b : Byte) (s : State) : (completeSize b s).preIdx = 0 := rfl
@[simp] theorem completeSize_preBuf (b : Byte) (s : State) : (completeSize b s).preBuf = s.preBuf.set 3 b := rfl
@[simp] theorem completeSize_count (b : Byte) (s : State) : (completeSize b s).count = s.count := rfl
@[simp] theorem completeSize_framesDone (b : Byte) (s : State) : (completeSize b s).framesDone = s.framesDone := rfl
@[simp] theorem completeSize_fsize (b : Byte) (s : State) : (completeSize b s).fsize = s.completed b := rfl
@[simp] theorem completeSize_hdr (b : Byte) (s : State) : (completeSize b s).hdr = s.hdr := rfl
@[simp] theorem completeSize_bodyIdx (b : Byte) (s : State) : (completeSize b s).bodyIdx = s.bodyIdx := rfl
@[simp] theorem completeSize_pos (b : Byte) (s : State) : (completeSize b s).pos = s.pos + 1 := rfl
@[simp] theorem completeSize_errCode (b : Byte) (s : State) : (completeSize b s).errCode = s.errCode := rfl
@[simp] theorem completeSize_errField (b : Byte) (s : State) : (completeSize b s).errField = s.errField := rfl
@[simp] theorem completeSize_events (b : Byte) (s : State) : (completeSize b s).events = s.events := rfl
@[simp] theorem completeSize_prefixOrder (b : Byte) (s : State) : (completeSize b s).prefixOrder = s.prefixOrder := rfl
@[simp] theorem completeSize_inbox (b : Byte) (s : State) : (completeSize b s).inbox = s.inbox := rfl
@[simp] theorem completeSize_out (b : Byte) (s : State) : (completeSize b s).out = s.out := rfl
@[simp] theorem completeSize_draws (b : Byte) (s : State) : (completeSize b s).draws = s.draws := rfl

/-! enterBody -/

@[simp] theorem enterBody_phase (s : State) : (enterBody s).phase = .body := rfl
@[simp] theorem enterBody_preIdx (s : State) : (enterBody s).preIdx = s.preIdx := rfl
@[simp] theorem enterBody_preBuf (s : State) : (enterBody s).preBuf = s.preBuf := rfl
@[simp] theorem enterBody_count (s : State) : (enterBody s).count = s.count := rfl
@[simp] theorem enterBody_framesDone (s : State) : (enterBody s).framesDone = s.framesDone := rfl
@[simp] theorem enterBody_fsize (s : State) : (enterBody s).fsize = s.fsize := rfl
@[simp] theorem enterBody_hdr (s : State) : (enterBody s).hdr = s.hdr := rfl
@[simp] theorem enterBody_bodyIdx (s : State) : (enterBody s).bodyIdx = 0 := rfl
@[simp] theorem enterBody_pos (s : State) : (enterBody s).pos = s.pos := rfl
@[simp] theorem enterBody_errCode (s : State) : (enterBody s).errCode = s.errCode := rfl
@[simp] theorem enterBody_errField (s : State) : (enterBody s).errField = s.errField := rfl
@[simp] theorem enterBody_events (s : State) : (enterBody s).events = s.events := rfl
@[simp] theorem enterBody_prefixOrder (s : State) : (enterBody s).prefixOrder = s.prefixOrder := rfl
@[simp] theorem enterBody_inbox (s : State) : (enterBody s).inbox = s.inbox := rfl
@[simp] theorem enterBody_out (s : State) : (enterBody s).out = s.out := rfl
@[simp] theorem enterBody_draws (s : State) : (enterBody s).draws = s.draws := rfl

/-! storeBodyByte -/

@[simp] theorem storeBodyByte_phase (b : Byte) (s : State) : (storeBodyByte b s).phase = s.phase := rfl
@[simp] theorem storeBodyByte_preIdx (b : Byte) (s : State) : (storeBodyByte b s).preIdx = s.preIdx := rfl
@[simp] theorem storeBodyByte_preBuf (b : Byte) (s : State) : (storeBodyByte b s).preBuf = s.preBuf := rfl
@[simp] theorem storeBodyByte_count (b : Byte) (s : State) : (storeBodyByte b s).count = s.count := rfl
@[simp] theorem storeBodyByte_framesDone (b : Byte) (s : State) : (storeBodyByte b s).framesDone = s.framesDone := rfl
@[simp] theorem storeBodyByte_fsize (b : Byte) (s : State) : (storeBodyByte b s).fsize = s.fsize := rfl
@[simp] theorem storeBodyByte_hdr (b : Byte) (s : State) : (storeBodyByte b s).hdr = if s.bodyIdx.toNat < Config.headerLen then s.hdr.setIfInBounds s.bodyIdx.toNat b else s.hdr := rfl
@[simp] theorem storeBodyByte_bodyIdx (b : Byte) (s : State) : (storeBodyByte b s).bodyIdx = s.bodyIdx + 1 := rfl
@[simp] theorem storeBodyByte_pos (b : Byte) (s : State) : (storeBodyByte b s).pos = s.pos + 1 := rfl
@[simp] theorem storeBodyByte_errCode (b : Byte) (s : State) : (storeBodyByte b s).errCode = s.errCode := rfl
@[simp] theorem storeBodyByte_errField (b : Byte) (s : State) : (storeBodyByte b s).errField = s.errField := rfl
@[simp] theorem storeBodyByte_events (b : Byte) (s : State) : (storeBodyByte b s).events = s.events := rfl
@[simp] theorem storeBodyByte_prefixOrder (b : Byte) (s : State) : (storeBodyByte b s).prefixOrder = s.prefixOrder := rfl
@[simp] theorem storeBodyByte_inbox (b : Byte) (s : State) : (storeBodyByte b s).inbox = s.inbox := rfl
@[simp] theorem storeBodyByte_out (b : Byte) (s : State) : (storeBodyByte b s).out = s.out := rfl
@[simp] theorem storeBodyByte_draws (b : Byte) (s : State) : (storeBodyByte b s).draws = s.draws := rfl

/-! completeFrame -/

@[simp] theorem completeFrame_phase (s : State) : (completeFrame s).phase = s.phase := rfl
@[simp] theorem completeFrame_preIdx (s : State) : (completeFrame s).preIdx = s.preIdx := rfl
@[simp] theorem completeFrame_preBuf (s : State) : (completeFrame s).preBuf = s.preBuf := rfl
@[simp] theorem completeFrame_count (s : State) : (completeFrame s).count = s.count := rfl
@[simp] theorem completeFrame_framesDone (s : State) : (completeFrame s).framesDone = s.framesDone + 1 := rfl
@[simp] theorem completeFrame_fsize (s : State) : (completeFrame s).fsize = s.fsize := rfl
@[simp] theorem completeFrame_hdr (s : State) : (completeFrame s).hdr = s.hdr := rfl
@[simp] theorem completeFrame_bodyIdx (s : State) : (completeFrame s).bodyIdx = s.bodyIdx := rfl
@[simp] theorem completeFrame_pos (s : State) : (completeFrame s).pos = s.pos := rfl
@[simp] theorem completeFrame_errCode (s : State) : (completeFrame s).errCode = s.errCode := rfl
@[simp] theorem completeFrame_errField (s : State) : (completeFrame s).errField = s.errField := rfl
@[simp] theorem completeFrame_events (s : State) : (completeFrame s).events = s.events ++ [.frame s.framesDone (decodeHeader s.hdr) (protoClass s.hdr[9])] := rfl
@[simp] theorem completeFrame_prefixOrder (s : State) : (completeFrame s).prefixOrder = s.prefixOrder := rfl
@[simp] theorem completeFrame_inbox (s : State) : (completeFrame s).inbox = s.inbox := rfl
@[simp] theorem completeFrame_out (s : State) : (completeFrame s).out = s.out := rfl
@[simp] theorem completeFrame_draws (s : State) : (completeFrame s).draws = s.draws := rfl

/-! resetBlock -/

@[simp] theorem resetBlock_phase (s : State) : (resetBlock s).phase = .idle := rfl
@[simp] theorem resetBlock_preIdx (s : State) : (resetBlock s).preIdx = 0 := rfl
@[simp] theorem resetBlock_preBuf (s : State) : (resetBlock s).preBuf = Vector.replicate 4 0 := rfl
@[simp] theorem resetBlock_count (s : State) : (resetBlock s).count = 0 := rfl
@[simp] theorem resetBlock_framesDone (s : State) : (resetBlock s).framesDone = 0 := rfl
@[simp] theorem resetBlock_fsize (s : State) : (resetBlock s).fsize = 0 := rfl
@[simp] theorem resetBlock_hdr (s : State) : (resetBlock s).hdr = Vector.replicate 20 0 := rfl
@[simp] theorem resetBlock_bodyIdx (s : State) : (resetBlock s).bodyIdx = 0 := rfl
@[simp] theorem resetBlock_pos (s : State) : (resetBlock s).pos = 0 := rfl
@[simp] theorem resetBlock_errCode (s : State) : (resetBlock s).errCode = .none := rfl
@[simp] theorem resetBlock_errField (s : State) : (resetBlock s).errField = .none := rfl
@[simp] theorem resetBlock_events (s : State) : (resetBlock s).events = [] := rfl
@[simp] theorem resetBlock_prefixOrder (s : State) : (resetBlock s).prefixOrder = s.prefixOrder := rfl
@[simp] theorem resetBlock_inbox (s : State) : (resetBlock s).inbox = s.inbox := rfl
@[simp] theorem resetBlock_out (s : State) : (resetBlock s).out = .nothing := rfl
@[simp] theorem resetBlock_draws (s : State) : (resetBlock s).draws = s.draws := rfl

/-! popped -/

@[simp] theorem State.popped_phase (s : State) : s.popped.phase = s.phase := rfl
@[simp] theorem State.popped_preIdx (s : State) : s.popped.preIdx = s.preIdx := rfl
@[simp] theorem State.popped_preBuf (s : State) : s.popped.preBuf = s.preBuf := rfl
@[simp] theorem State.popped_count (s : State) : s.popped.count = s.count := rfl
@[simp] theorem State.popped_framesDone (s : State) : s.popped.framesDone = s.framesDone := rfl
@[simp] theorem State.popped_fsize (s : State) : s.popped.fsize = s.fsize := rfl
@[simp] theorem State.popped_hdr (s : State) : s.popped.hdr = s.hdr := rfl
@[simp] theorem State.popped_bodyIdx (s : State) : s.popped.bodyIdx = s.bodyIdx := rfl
@[simp] theorem State.popped_pos (s : State) : s.popped.pos = s.pos := rfl
@[simp] theorem State.popped_errCode (s : State) : s.popped.errCode = s.errCode := rfl
@[simp] theorem State.popped_errField (s : State) : s.popped.errField = s.errField := rfl
@[simp] theorem State.popped_events (s : State) : s.popped.events = s.events := rfl
@[simp] theorem State.popped_prefixOrder (s : State) : s.popped.prefixOrder = s.prefixOrder := rfl
@[simp] theorem State.popped_inbox (s : State) : s.popped.inbox = s.inbox.tail := rfl
@[simp] theorem State.popped_out (s : State) : s.popped.out = s.out := rfl
@[simp] theorem State.popped_draws (s : State) : s.popped.draws = s.draws := rfl

/-! Derived values see only the fields they are made of. -/

@[simp] theorem State.popped_situation (s : State) : s.popped.situation = s.situation := rfl
@[simp] theorem State.popped_completed (s : State) (b : Byte) : s.popped.completed b = s.completed b := rfl
@[simp] theorem State.popped_decOpen (s : State) : s.popped.decOpen = s.decOpen := rfl
@[simp] theorem State.situation_phase (s : State) : s.situation.phase = s.phase := rfl
@[simp] theorem State.situation_preIdx (s : State) : s.situation.preIdx = s.preIdx := rfl
@[simp] theorem State.situation_preBuf (s : State) : s.situation.preBuf = s.preBuf := rfl
@[simp] theorem State.situation_prefixOrder (s : State) : s.situation.prefixOrder = s.prefixOrder := rfl

end Sys2Proof.Machine
end

