-- ==== Sys2Proof/Laws/Effect.lean ====
section
/-! SUPPORT. Everything one step can do, said once: `Effect act u t` holds when the host's act `act` takes the block from `u`
to `t`, and `step_effect` says that a step that answers a next state is one of these. -/

namespace Sys2Proof.Machine

/-- What an act of the host can do to the block, one constructor per rule. -/
inductive Effect : HostAct → State → State → Prop
  /-- R141 -/
  | opened {u} (hp : u.phase = .idle) : Effect (.start true) u (enter .count { u with preIdx := 0, pos := 0 })
  /-- R141 -/
  | notOpened {u} (hp : u.phase = .idle) : Effect (.start false) u (raiseErr .open .none u)
  /-- R210 -/
  | reset {u} : Effect .reset u (resetBlock u)
  /-- R143 -/
  | countByte {u b} (hp : u.phase = .count) (hi : u.preIdx ≠ 3) : Effect (.answer (.byte b)) u (storePrefixByte b u)
  /-- R145 -/
  | countNone {u b} (hp : u.phase = .count) (hi : u.preIdx = 3) (hc : (u.completed b).toInt ≤ 0) :
      Effect (.answer (.byte b)) u (finish (completeCount b u))
  /-- R145 -/
  | countFrames {u b} (hp : u.phase = .count) (hi : u.preIdx = 3) (hc : 0 < (u.completed b).toInt) :
      Effect (.answer (.byte b)) u (enter .size (completeCount b u))
  /-- R144 -/
  | countEmpty {u} (hp : u.phase = .count) (hi : u.preIdx = 0) : Effect (.answer .eos) u (emptyCount u)
  /-- R146 -/
  | countShort {u} (hp : u.phase = .count) (hi : u.preIdx ≠ 0) : Effect (.answer .eos) u (raiseErr .format .count u)
  /-- R147 -/
  | countFailed {u} (hp : u.phase = .count) : Effect (.answer .fail) u (raiseErr .format .count u)
  /-- R148 -/
  | sizeByte {u b} (hp : u.phase = .size) (hi : u.preIdx ≠ 3) : Effect (.answer (.byte b)) u (storePrefixByte b u)
  /-- R151 -/
  | sizeOverflow {u b} (hp : u.phase = .size) (hi : u.preIdx = 3) (hn : 2048 < (u.completed b).toInt) :
      Effect (.answer (.byte b)) u (raiseErr .overflow .size (completeSize b u))
  /-- R152 -/
  | sizeUndersize {u b} (hp : u.phase = .size) (hi : u.preIdx = 3) (hn : (u.completed b).toInt < 20) :
      Effect (.answer (.byte b)) u (raiseErr .undersize .size (completeSize b u))
  /-- R152 -/
  | sizeAccept {u b} (hp : u.phase = .size) (hi : u.preIdx = 3) (hl : 20 ≤ (u.completed b).toInt)
      (hu : (u.completed b).toInt ≤ 2048) : Effect (.answer (.byte b)) u (enterBody (completeSize b u))
  /-- R149 -/
  | sizeCut {u sym} (hp : u.phase = .size) (hs : ∀ b, sym ≠ .byte b) : Effect (.answer sym) u (raiseErr .format .size u)
  /-- R153 -/
  | bodyByte {u b} (hp : u.phase = .body) (hi : (u.bodyIdx.toNat : Int) + 1 < u.fsize.toInt) :
      Effect (.answer (.byte b)) u (storeBodyByte b u)
  /-- R156, R157 -/
  | bodyNext {u b} (hp : u.phase = .body) (hi : (u.bodyIdx.toNat : Int) + 1 = u.fsize.toInt)
      (hk : u.framesDone + 1 ≠ u.count) :
      Effect (.answer (.byte b)) u (enter .size { completeFrame (storeBodyByte b u) with preIdx := 0 })
  /-- R156, R157 -/
  | bodyLast {u b} (hp : u.phase = .body) (hi : (u.bodyIdx.toNat : Int) + 1 = u.fsize.toInt)
      (hk : u.framesDone + 1 = u.count) : Effect (.answer (.byte b)) u (finish (completeFrame (storeBodyByte b u)))
  /-- R154 -/
  | bodyCut {u sym} (hp : u.phase = .body) (hs : ∀ b, sym ≠ .byte b) : Effect (.answer sym) u (raiseErr .format .body u)
  /-- A result is shown: R100 to R131, R34, R38. The flag says whether a free value was read. -/
  | shown {u act v n} (hr : act ≠ .reset) (hs : ∀ o, act ≠ .start o) (ha : ∀ sym, act ≠ .answer sym)
      (hn : n = u.draws ∨ n = u.draws + 1) : Effect act u { u with out := v, draws := n }

/-- A header operation shows a result, after reading a free value or none. -/
theorem headerOp_next {output : DecodedHeader → OutVal} {src : HdrSrc} {u t : State}
    (h : headerOp output src u = .next t) :
    ∃ v n, (n = u.draws ∨ n = u.draws + 1) ∧ t = { u with out := v, draws := n } := by
  cases src with
  | port =>
    by_cases hw : u.decOpen = true
    · simp only [headerOp, readHeader, hw, if_true, Host.Outcome.next.injEq] at h
      exact ⟨_, _, .inl rfl, h.symm⟩
    · simp only [headerOp, readHeader, hw, Bool.false_eq_true, if_false, Host.Outcome.next.injEq] at h
      exact ⟨_, _, .inr rfl, h.symm⟩
  | given bytes =>
    cases hb : headerOfBytes bytes with
    | none => simp [headerOp, readHeader, hb] at h
    | some hd =>
      simp only [headerOp, readHeader, hb, Option.map_some, Host.Outcome.next.injEq] at h
      exact ⟨_, _, .inl rfl, h.symm⟩

/-- A header operation on given bytes: the first twenty are decoded, and nothing else changes (R115). -/
theorem headerOp_given {output : DecodedHeader → OutVal} {bytes : List Byte} (s : State) (h : 20 ≤ bytes.length) :
    headerOp output (.given bytes) s = .next { s with out := output (decodeHeader (bodyHeader bytes)) } := by
  simp [headerOp, readHeader, headerOfBytes_of_length bytes h, answerWith]

/-- Every header row is `headerOp` with its own output. -/
theorem exec_headerInstr (sel : HdrSel) (src : HdrSrc) (s : State) :
    ∃ output, exec (headerInstr sel src) s = headerOp output src s := by
  cases sel <;> exact ⟨_, rfl⟩

/-- A word's operation shows a result. -/
theorem exec_word_next {bytes : List Byte} {i : Instr} {u t : State} (hd : decodeWord bytes = .ok i)
    (h : exec i u = .next t) : ∃ v n, (n = u.draws ∨ n = u.draws + 1) ∧ t = { u with out := v, draws := n } := by
  unfold decodeWord at hd
  split at hd
  · rename_i pr
    cases hd
    have key : ∀ j, (j ∈ protoRows.map (fun r => r.2.2) ∨ j = .protoUnknown pr) → exec j u = .next t →
        ∃ v n, (n = u.draws ∨ n = u.draws + 1) ∧ t = { u with out := v, draws := n } := by
      intro j hj ht
      simp only [protoRows, List.map_cons, List.map_nil, List.mem_cons, List.not_mem_nil, or_false] at hj
      rcases hj with (rfl | rfl | rfl | rfl | rfl | rfl | rfl | rfl | rfl | rfl | rfl | rfl) | rfl
      all_goals try (cases ht; exact ⟨_, _, .inl rfl, rfl⟩)
      simp only [exec, execProtoUnknown] at ht
      split at ht
      · cases ht; exact ⟨_, _, .inl rfl, rfl⟩
      · cases ht
    refine key _ ?_ h
    unfold decodeProto
    split
    · rename_i row hrow
      exact .inl (List.mem_map.mpr ⟨row, List.mem_of_find?_eq_some hrow, rfl⟩)
    · exact .inr rfl
  · cases hd; cases h; exact ⟨_, _, .inl rfl, rfl⟩
  · split at hd
    · cases hd; exact headerOp_next h
    · cases hd

theorem exec_selectCount {sym : Symbol} {u t : State} (hp : u.phase = .count)
    (h : exec (selectCount u.situation sym) u = .next t) : Effect (.answer sym) u t := by
  have hcw : ∀ b, completedWord u.prefixOrder u.preBuf b = u.completed b := fun _ => rfl
  cases sym with
  | byte b =>
    by_cases hi : u.preIdx = 3
    · by_cases hc : countIsNone (u.completed b) = true
      · simp [selectCount, exec, execClsCountNone, hp, hi, hcw, hc] at h
        subst h; exact .countNone hp hi ((countIsNone_iff _).mp hc)
      · simp [selectCount, exec, execClsCountFrames, hp, hi, hcw, hc] at h
        subst h; exact .countFrames hp hi (by rw [countIsNone_iff] at hc; omega)
    · rw [show selectCount u.situation (.byte b) = .recCount (.byte b) from if_neg hi, exec, execRecCount, if_pos hp] at h
      exact Host.Outcome.next.inj ((if_neg hi).symm.trans h) ▸ .countByte hp hi
  | eos =>
    by_cases hi : u.preIdx = 0
    · simp [selectCount, exec, execClsCountEmpty, hp, hi] at h
      subst h; exact .countEmpty hp hi
    · rw [show selectCount u.situation .eos = .recCount .eos from if_neg hi, exec, execRecCount, if_pos hp] at h
      exact Host.Outcome.next.inj ((if_neg hi).symm.trans h) ▸ .countShort hp hi
  | fail =>
    simp [selectCount, exec, execRecCount, hp] at h
    subst h; exact .countFailed hp

theorem exec_selectSize {sym : Symbol} {u t : State} (hp : u.phase = .size)
    (h : exec (selectSize u.situation sym) u = .next t) : Effect (.answer sym) u t := by
  have hcw : ∀ b, completedWord u.prefixOrder u.preBuf b = u.completed b := fun _ => rfl
  cases sym with
  | byte b =>
    by_cases hi : u.preIdx = 3
    · by_cases ho : sizeOverflows (u.completed b) = true
      · simp [selectSize, exec, execClsSizeOverflow, hp, hi, hcw, ho] at h
        subst h; exact .sizeOverflow hp hi ((sizeOverflows_iff _).mp ho)
      · by_cases hs : Machine.sizeUndersize (u.completed b) = true
        · simp [selectSize, exec, execClsSizeUndersize, hp, hi, hcw, ho, hs] at h
          subst h; exact .sizeUndersize hp hi ((sizeUndersize_iff _).mp hs)
        · simp [selectSize, exec, execClsSizeAccept, hp, hi, hcw, ho, hs] at h
          subst h
          rw [sizeOverflows_iff] at ho
          rw [sizeUndersize_iff] at hs
          exact .sizeAccept hp hi (by omega) (by omega)
    · rw [show selectSize u.situation (.byte b) = .recSize (.byte b) from if_neg hi, exec, execRecSize, if_pos hp] at h
      exact Host.Outcome.next.inj ((if_neg hi).symm.trans h) ▸ .sizeByte hp hi
  | eos =>
    simp [selectSize, exec, execRecSize, hp] at h
    subst h; exact .sizeCut hp (by simp)
  | fail =>
    simp [selectSize, exec, execRecSize, hp] at h
    subst h; exact .sizeCut hp (by simp)

theorem execRecBody_effect {sym : Symbol} {u t : State} (h : execRecBody sym u = .next t) :
    Effect (.answer sym) u t := by
  unfold execRecBody at h
  split at h
  · rename_i hp
    cases sym with
    | byte b =>
      simp only at h
      split at h
      · rename_i hlt
        cases h
        unfold takeBodyByte
        split
        · rename_i heq
          unfold afterFrame
          split
          · rename_i hk; exact .bodyLast hp heq hk
          · rename_i hk; exact .bodyNext hp heq hk
        · exact .bodyByte hp (by omega)
      · cases h
    | eos => cases h; exact .bodyCut hp (by simp)
    | fail => cases h; exact .bodyCut hp (by simp)
  · cases h

/-- A step that answers a next state takes the host's next act and has that act's effect. -/
theorem step_effect {s t : State} (h : step s = .next t) :
    ∃ act rest, s.inbox = act :: rest ∧ Effect act s.popped t := by
  unfold step at h
  split at h
  · cases h
  · rename_i act rest hin
    refine ⟨act, rest, hin, ?_⟩
    rw [← State.popped_situation] at h
    generalize s.popped = u at h
    cases act with
    | start opened =>
      simp only [decodeAct, exec, execCmdStart] at h
      split at h
      · rename_i hp
        cases opened
        · cases h; exact .notOpened hp
        · cases h; exact .opened hp
      · cases h
    | reset => cases h; exact .reset
    | answer sym =>
      cases hp : u.phase with
      | idle | done | error => simp [decodeAct, selectRow, hp] at h
      | count =>
        simp only [decodeAct, selectRow, State.situation_phase, hp] at h
        exact exec_selectCount hp h
      | size =>
        simp only [decodeAct, selectRow, State.situation_phase, hp] at h
        exact exec_selectSize hp h
      | body =>
        simp only [decodeAct, selectRow, State.situation_phase, hp] at h
        exact execRecBody_effect h
    | word bytes =>
      cases hd : decodeWord bytes with
      | error e => simp [decodeAct, hd] at h
      | ok i =>
        simp only [decodeAct, hd] at h
        obtain ⟨v, n, hn, rfl⟩ := exec_word_next hd h
        exact .shown (by simp) (by simp) (by simp) hn
    | header sel src =>
      cases hw : src.wellFormed with
      | false => simp [decodeAct, hw] at h
      | true =>
        simp only [decodeAct, hw, if_true] at h
        obtain ⟨output, ho⟩ := exec_headerInstr sel src u
        rw [ho] at h
        obtain ⟨v, n, hn, rfl⟩ := headerOp_next h
        exact .shown (by simp) (by simp) (by simp) hn
    | readClass =>
      simp only [decodeAct, readClassPort] at h
      split at h
      · cases h; exact .shown (by simp) (by simp) (by simp) (.inl rfl)
      · cases h; exact .shown (by simp) (by simp) (by simp) (.inr rfl)
    | readReg n =>
      simp only [decodeAct, readRegister] at h
      split at h
      · cases h; exact .shown (by simp) (by simp) (by simp) (.inl rfl)
      · cases h
    | writeReg n v => cases h

end Sys2Proof.Machine
end

