-- ==== Sys2Proof/Laws/PerInstr.lean ====
section
/-! SUPPORT. Every row of the table can be reached: for each well-formed instruction there is a situation in which the act
that presents it selects it (30_encoding.md R92). -/

namespace Sys2Proof.Laws.Selectable

/-- Some situation lets the encoded instruction be selected. -/
def Statement (i : Instr) : Prop :=
  i.wellFormed = true → ∃ sit : Situation, decodeAct sit (encode i) = .instr i

/-- A situation with the byte order BE, in which the last of four bytes is the least significant. -/
def beSituation (phase : Phase) (preIdx : BitVec 2) (p0 p1 p2 : Byte) : Situation := ⟨phase, preIdx, #v[p0, p1, p2, 0], .be⟩

/-- The value of a completed word under BE, its first three bytes known. -/
theorem completed_toNat (p0 p1 p2 b : Byte) :
    (Machine.completedWord .be #v[p0, p1, p2, 0] b).toNat = ((p0.toNat * 256 + p1.toNat) * 256 + p2.toNat) * 256 + b.toNat := by
  simp only [Machine.completedWord, Machine.assemble32, BitVec.toNat_append]
  simp only [Vector.getElem_mk, List.getElem_toArray, List.getElem_cons_zero, List.getElem_cons_succ]
  rw [← Nat.shiftLeft_add_eq_or_of_lt b.isLt, ← Nat.shiftLeft_add_eq_or_of_lt p2.isLt, ← Nat.shiftLeft_add_eq_or_of_lt p1.isLt]
  simp only [Nat.shiftLeft_eq, Nat.reducePow]

theorem completed_toInt (p0 p1 p2 b : Byte) :
    (Machine.completedWord .be #v[p0, p1, p2, 0] b).toInt =
      (let v : Int := ((p0.toNat * 256 + p1.toNat) * 256 + p2.toNat) * 256 + b.toNat
       if p0.toNat < 128 then v else v - 4294967296) := by
  have h1 := p1.isLt
  have h2 := p2.isLt
  have h3 := b.isLt
  have h := completed_toNat p0 p1 p2 b
  simp only [BitVec.toInt, h]
  split <;> split <;> omega

theorem merge16 (b1 b2 : Byte) : Statement (.merge16 b1 b2) := fun _ => ⟨beSituation .idle 0 0 0 0, rfl⟩

theorem decVersion (src : HdrSrc) : Statement (.decVersion src) := fun h => ⟨beSituation .idle 0 0 0 0, if_pos h⟩

theorem decIhl (src : HdrSrc) : Statement (.decIhl src) := fun h => ⟨beSituation .idle 0 0 0 0, if_pos h⟩

theorem decTos (src : HdrSrc) : Statement (.decTos src) := fun h => ⟨beSituation .idle 0 0 0 0, if_pos h⟩

theorem decTotalLength (src : HdrSrc) : Statement (.decTotalLength src) := fun h => ⟨beSituation .idle 0 0 0 0, if_pos h⟩

theorem decIdentification (src : HdrSrc) : Statement (.decIdentification src) := fun h => ⟨beSituation .idle 0 0 0 0, if_pos h⟩

theorem decFlags (src : HdrSrc) : Statement (.decFlags src) := fun h => ⟨beSituation .idle 0 0 0 0, if_pos h⟩

theorem decFragOffset (src : HdrSrc) : Statement (.decFragOffset src) := fun h => ⟨beSituation .idle 0 0 0 0, if_pos h⟩

theorem decTtl (src : HdrSrc) : Statement (.decTtl src) := fun h => ⟨beSituation .idle 0 0 0 0, if_pos h⟩

theorem decProtocol (src : HdrSrc) : Statement (.decProtocol src) := fun h => ⟨beSituation .idle 0 0 0 0, if_pos h⟩

theorem decChecksum (src : HdrSrc) : Statement (.decChecksum src) := fun h => ⟨beSituation .idle 0 0 0 0, if_pos h⟩

theorem decSrcAddr (src : HdrSrc) : Statement (.decSrcAddr src) := fun h => ⟨beSituation .idle 0 0 0 0, if_pos h⟩

theorem decDstAddr (src : HdrSrc) : Statement (.decDstAddr src) := fun h => ⟨beSituation .idle 0 0 0 0, if_pos h⟩

theorem decode (src : HdrSrc) : Statement (.decode src) := fun h => ⟨beSituation .idle 0 0 0 0, if_pos h⟩

theorem protoIcmp : Statement .protoIcmp := fun _ => ⟨beSituation .idle 0 0 0 0, rfl⟩

theorem protoIgmp : Statement .protoIgmp := fun _ => ⟨beSituation .idle 0 0 0 0, rfl⟩

theorem protoTcp : Statement .protoTcp := fun _ => ⟨beSituation .idle 0 0 0 0, rfl⟩

theorem protoIgrp : Statement .protoIgrp := fun _ => ⟨beSituation .idle 0 0 0 0, rfl⟩

theorem protoUdp : Statement .protoUdp := fun _ => ⟨beSituation .idle 0 0 0 0, rfl⟩

theorem protoGre : Statement .protoGre := fun _ => ⟨beSituation .idle 0 0 0 0, rfl⟩

theorem protoEsp : Statement .protoEsp := fun _ => ⟨beSituation .idle 0 0 0 0, rfl⟩

theorem protoAh : Statement .protoAh := fun _ => ⟨beSituation .idle 0 0 0 0, rfl⟩

theorem protoSkip : Statement .protoSkip := fun _ => ⟨beSituation .idle 0 0 0 0, rfl⟩

theorem protoEigrp : Statement .protoEigrp := fun _ => ⟨beSituation .idle 0 0 0 0, rfl⟩

theorem protoOspf : Statement .protoOspf := fun _ => ⟨beSituation .idle 0 0 0 0, rfl⟩

theorem protoL2tp : Statement .protoL2tp := fun _ => ⟨beSituation .idle 0 0 0 0, rfl⟩

theorem protoUnknown (pr : Byte) : Statement (.protoUnknown pr) := by
  intro h
  refine ⟨beSituation .idle 0 0 0 0, ?_⟩
  have key : ∀ p : Byte, Machine.protoClass p = 0 → decodeProto p = .protoUnknown p := by decide +revert
  have hp : Machine.protoClass pr = 0 := by simpa [Instr.wellFormed] using h
  exact congrArg Decoded.instr (key pr hp)

theorem cmdStart (opened : Bool) : Statement (.cmdStart opened) := fun _ => ⟨beSituation .idle 0 0 0 0, rfl⟩

theorem cmdReset : Statement .cmdReset := fun _ => ⟨beSituation .idle 0 0 0 0, rfl⟩

theorem recCount (sym : Symbol) : Statement (.recCount sym) := by
  cases sym <;> exact fun _ => ⟨beSituation .count 1 0 0 0, rfl⟩

theorem recSize (sym : Symbol) : Statement (.recSize sym) := by
  cases sym <;> exact fun _ => ⟨beSituation .size 1 0 0 0, rfl⟩

theorem recBody (sym : Symbol) : Statement (.recBody sym) := fun _ => ⟨beSituation .body 0 0 0 0, rfl⟩

theorem clsCountEmpty : Statement .clsCountEmpty := fun _ => ⟨beSituation .count 0 0 0 0, rfl⟩

theorem clsCountNone (b : Byte) : Statement (.clsCountNone b) := by
  intro _
  refine ⟨beSituation .count 3 0x80 0 0, ?_⟩
  have hb := b.isLt
  have hv := completed_toInt 0x80 0 0 b
  have hc : Machine.countIsNone (Machine.completedWord .be #v[0x80, 0, 0, 0] b) = true := by
    rw [Machine.countIsNone_iff, hv]; simp; omega
  exact congrArg Decoded.instr (if_pos hc)

theorem clsCountFrames (b : Byte) : Statement (.clsCountFrames b) := by
  intro _
  refine ⟨beSituation .count 3 0 1 0, ?_⟩
  have hv := completed_toInt 0 1 0 b
  have hc : ¬ Machine.countIsNone (Machine.completedWord .be #v[0, 1, 0, 0] b) = true := by
    rw [Machine.countIsNone_iff, hv]; simp; omega
  exact congrArg Decoded.instr (if_neg hc)

theorem clsSizeOverflow (b : Byte) : Statement (.clsSizeOverflow b) := by
  intro _
  refine ⟨beSituation .size 3 0 1 0, ?_⟩
  have hv := completed_toInt 0 1 0 b
  have hc : Machine.sizeOverflows (Machine.completedWord .be #v[0, 1, 0, 0] b) = true := by
    rw [Machine.sizeOverflows_iff, hv]; simp; omega
  exact congrArg Decoded.instr (if_pos hc)

theorem clsSizeAccept (b : Byte) : Statement (.clsSizeAccept b) := by
  intro _
  refine ⟨beSituation .size 3 0 0 1, ?_⟩
  have hb := b.isLt
  have hv := completed_toInt 0 0 1 b
  have hc : ¬ Machine.sizeOverflows (Machine.completedWord .be #v[0, 0, 1, 0] b) = true := by
    rw [Machine.sizeOverflows_iff, hv]; simp; omega
  have hd : ¬ Machine.sizeUndersize (Machine.completedWord .be #v[0, 0, 1, 0] b) = true := by
    rw [Machine.sizeUndersize_iff, hv]; simp; omega
  exact congrArg Decoded.instr ((if_neg hc).trans (if_neg hd))

theorem clsSizeUndersize (b : Byte) : Statement (.clsSizeUndersize b) := by
  intro _
  refine ⟨beSituation .size 3 0x80 0 0, ?_⟩
  have hb := b.isLt
  have hv := completed_toInt 0x80 0 0 b
  have hc : ¬ Machine.sizeOverflows (Machine.completedWord .be #v[0x80, 0, 0, 0] b) = true := by
    rw [Machine.sizeOverflows_iff, hv]; simp; omega
  have hd : Machine.sizeUndersize (Machine.completedWord .be #v[0x80, 0, 0, 0] b) = true := by
    rw [Machine.sizeUndersize_iff, hv]; simp; omega
  exact congrArg Decoded.instr ((if_neg hc).trans (if_pos hd))

end Sys2Proof.Laws.Selectable
end

