-- ==== Sys2Proof/Laws/Run.lean ====
section
/-! SUPPORT. Runs put together from steps, and the steps of the byte-wise records: prefix bytes (41_reader.md R143, R148) and
body bytes (R153). -/

namespace Sys2Proof.Machine

/-- The first of several steps. -/
theorem run_next (M : Host.Core) {s t : M.State} (k : Nat) (h : M.step s = .next t) : M.run (k + 1) s = M.run k t := by
  rw [Host.Core.run, h]

/-- Runs one after the other. -/
theorem run_add (M : Host.Core) {s t : M.State} (a b : Nat) (h : M.run a s = .next t) :
    M.run (a + b) s = M.run b t := by
  induction a generalizing s with
  | zero => cases h; simp
  | succ a ih =>
    rw [Host.Core.run] at h
    cases hs : M.step s with
    | next u => rw [hs] at h; rw [show a + 1 + b = (a + b) + 1 by omega, run_next M _ hs]; exact ih h
    | fault r => rw [hs] at h; cases h
    | refused r => rw [hs] at h; cases h

/-- The step on one of the first three bytes of a count or a size. -/
theorem step_prefixByte {s : State} {b : Byte} {rest : List HostAct} (hin : s.inbox = .answer (.byte b) :: rest)
    (hp : s.phase = .count ∨ s.phase = .size) (hi : s.preIdx ≠ 3) : step s = .next (storePrefixByte b s.popped) := by
  rcases hp with hp | hp
  · have h : step s = exec (selectCount s.situation (.byte b)) s.popped := by simp [step, hin, decodeAct, selectRow, hp]
    rw [h, show selectCount s.situation (.byte b) = .recCount (.byte b) from if_neg hi, exec, execRecCount,
      if_pos (show s.popped.phase = .count from hp)]
    exact if_neg hi
  · have h : step s = exec (selectSize s.situation (.byte b)) s.popped := by simp [step, hin, decodeAct, selectRow, hp]
    rw [h, show selectSize s.situation (.byte b) = .recSize (.byte b) from if_neg hi, exec, execRecSize,
      if_pos (show s.popped.phase = .size from hp)]
    exact if_neg hi

/-- The step on a body byte. -/
theorem step_bodyByte {s : State} {b : Byte} {rest : List HostAct} (hin : s.inbox = .answer (.byte b) :: rest)
    (hp : s.phase = .body) (hlt : (s.bodyIdx.toNat : Int) < s.fsize.toInt) : step s = .next (takeBodyByte b s.popped) := by
  have h : step s = exec (.recBody (.byte b)) s.popped := by simp [step, hin, decodeAct, selectRow, hp]
  rw [h, exec, execRecBody, if_pos (show s.popped.phase = .body from hp)]
  exact if_pos hlt

/-- The header registers after some body bytes, the first of them with index `i` (R153, R155). -/
def storedHeader (h : HeaderBytes) : Nat → List Byte → HeaderBytes
  | _, [] => h
  | i, b :: rest => storedHeader (if i < 20 then h.setIfInBounds i b else h) (i + 1) rest

theorem storedHeader_getElem (h : HeaderBytes) (i : Nat) (bytes : List Byte) (k : Nat) (hk : k < 20) :
    (storedHeader h i bytes)[k] = if i ≤ k ∧ k < i + bytes.length then bytes.getD (k - i) 0 else h[k] := by
  induction bytes generalizing h i with
  | nil => simp [storedHeader]
  | cons b rest ih =>
    rw [storedHeader, ih]
    simp only [List.length_cons]
    by_cases h1 : i + 1 ≤ k ∧ k < i + 1 + rest.length
    · rw [if_pos h1, if_pos (by omega), show k - i = (k - (i + 1)) + 1 by omega]; simp
    · rw [if_neg h1]
      by_cases h2 : k = i
      · subst h2; simp [hk]
      · have h3 : ¬(i ≤ k ∧ k < i + (rest.length + 1)) := by omega
        rw [if_neg h3]
        split
        · rw [Vector.getElem_setIfInBounds, if_neg (fun h => h2 h.symm)]
        · rfl

/-- A whole frame rewrites the whole header (10_state.md R27). -/
theorem storedHeader_whole (h : HeaderBytes) (body : List Byte) (hl : 20 ≤ body.length) :
    storedHeader h 0 body = bodyHeader body := by
  apply Vector.ext
  intro k hk
  rw [storedHeader_getElem h 0 body k hk, if_pos (by omega), bodyHeader_getElem]; simp

end Sys2Proof.Machine
end

