-- ==== Sys2Proof/Tests/Slice0.lean ====
section
/-! SUPPORT. Tests with results from the spec's own tables and vectors (95_test_vectors.md, the examples of the rules), the
well-formedness smoke tests, and a witness for the hypotheses of each statement. -/

namespace Sys2Proof.Tests

open Sys2Proof.Machine Sys2Proof.Claims

/-- What a step shows of its next state; none when it has no next state. -/
def shown {α : Type} (o : Host.Outcome State Fault Refusal) (f : State → α) : Option α :=
  match o with
  | .next t => some (f t)
  | .fault _ => none
  | .refused _ => none

/-- The refusal of a step. -/
def refusal (o : Host.Outcome State Fault Refusal) : Option Refusal :=
  match o with
  | .next _ => none
  | .fault _ => none
  | .refused r => some r

/-- The header H1 of 95_test_vectors.md. -/
def h1 : List Byte :=
  [0x45, 0x00, 0x00, 0x3C, 0x1C, 0x46, 0x40, 0x00, 0x40, 0x06, 0xB1, 0xE6, 0xAC, 0x10, 0x0A, 0x63, 0xAC, 0x10, 0x0A, 0x0C]

/-- The header H2 of 95_test_vectors.md. -/
def h2 : List Byte :=
  [0x45, 0x00, 0x00, 0x1C, 0x00, 0x01, 0x20, 0x00, 0x80, 0x11, 0x12, 0x34, 0xC0, 0xA8, 0x00, 0x01, 0x0A, 0x00, 0x00, 0x02]

/-- The header H3 of 95_test_vectors.md. -/
def h3 : List Byte :=
  [0x46, 0xB8, 0x05, 0xDC, 0xAB, 0xCD, 0xA5, 0x3C, 0x01, 0xC8, 0xFF, 0xFF, 0x7F, 0x00, 0x00, 0x01, 0xFF, 0xFF, 0xFF, 0xFF]

/-- The decode of H1 in 95_test_vectors.md, section 3. -/
def h1Fields : DecodedHeader :=
  ⟨4, 5, 0, 60, 7238, 64, 0, 64, 6, 45542, #v[172, 16, 10, 99], #v[172, 16, 10, 12]⟩

/-- The decode of H3 in 95_test_vectors.md, section 3. -/
def h3Fields : DecodedHeader :=
  ⟨4, 6, 184, 1500, 43981, 160, 1340, 1, 200, 65535, #v[127, 0, 0, 1], #v[255, 255, 255, 255]⟩

/-- A state in COUNT with `i` bytes of the count read, the first three of them given. -/
def countState (i : BitVec 2) (p0 p1 p2 : Byte) : State :=
  { State.reset with phase := .count, preIdx := i, preBuf := #v[p0, p1, p2, 0], pos := i.setWidth 64 }

/-- A state in SIZE, one frame to read, with `i` bytes of the size read, the first three of them given. -/
def sizeState (i : BitVec 2) (p0 p1 p2 : Byte) : State :=
  { State.reset with
    phase := .size, preIdx := i, preBuf := #v[p0, p1, p2, 0], pos := 4 + i.setWidth 64, count := 1, events := [.count 1] }

/-- A state in BODY, the header registers holding `hdr`, with `i` of `n` body bytes read and `c` frames declared. -/
def bodyState (hdr : List Byte) (i : BitVec 12) (n c : Word) : State :=
  { State.reset with
    phase := .body, hdr := bodyHeader hdr, bodyIdx := i, fsize := n, pos := 8 + i.setWidth 64, count := c, events := [.count c] }

/-- A state in DONE after one frame with the header `hdr`. -/
def doneState (hdr : List Byte) : State :=
  { State.reset with
    phase := .done, hdr := bodyHeader hdr, bodyIdx := 20, fsize := 20, pos := 28, count := 1, framesDone := 1,
    events := [.count 1, .frame 0 (decodeHeader (bodyHeader hdr)) (protoClass (decodeHeader (bodyHeader hdr)).protocol), .done] }

/-- A state with the host's next acts. -/
def withActs (s : State) (acts : List HostAct) : State := { s with inbox := acts }

/-! ## WellFormed refuses an ill-formed term of each check -/

theorem test_short_header_is_ill_formed :
    ([HdrSel.version, .ihl, .tos, .totalLength, .identification, .flags, .fragOffset, .ttl, .protocol, .checksum, .srcAddr,
      .dstAddr, .whole].map (fun sel => (headerInstr sel (.given (h1.take 19))).wellFormed)) = List.replicate 13 false := by
  decide

theorem test_known_number_is_ill_formed_as_unknown :
    ([1, 2, 6, 9, 17, 47, 50, 51, 57, 88, 89, 115].map (fun pr : Byte => (Instr.protoUnknown pr).wellFormed)) =
      List.replicate 12 false := by decide

theorem test_whole_header_is_well_formed :
    (Instr.decode (.given h1)).wellFormed = true ∧ (Instr.decode .port).wellFormed = true ∧
      (Instr.protoUnknown 200).wellFormed = true := by decide

/-! ## Decoding: the words of 30_encoding.md R86 and R92, the classes of R82 -/

theorem test_protocol_words :
    [0b00000001, 0b00000010, 0b00000110, 0b00001001, 0b00010001, 0b00101111, 0b00110010, 0b00110011, 0b00111001, 0b01011000,
     0b01011001, 0b01110011].map (decodeTableWord 8) =
    [some .protoIcmp, some .protoIgmp, some .protoTcp, some .protoIgrp, some .protoUdp, some .protoGre, some .protoEsp,
     some .protoAh, some .protoSkip, some .protoEigrp, some .protoOspf, some .protoL2tp] := by decide

theorem test_unlisted_protocol_words :
    [0, 3, 16, 18, 116, 200, 255].map (decodeTableWord 8) =
    [some (.protoUnknown 0), some (.protoUnknown 3), some (.protoUnknown 16), some (.protoUnknown 18), some (.protoUnknown 116),
     some (.protoUnknown 200), some (.protoUnknown 255)] := by decide

/-- The first byte is the low half of a table word. -/
theorem test_merge_word : decodeTableWord 16 0x3412 = some (.merge16 0x12 0x34) := by decide

theorem test_other_lengths_decode_to_nothing : decodeTableWord 24 0 = none ∧ decodeTableWord 0 0 = none := by decide

theorem test_header_word : decodeTableWord 160 0 = some (.decode (.given (List.replicate 20 0))) := by decide

theorem test_header_requests :
    [HdrSel.version, .ihl, .tos, .totalLength, .identification, .flags, .fragOffset, .ttl, .protocol, .checksum, .srcAddr,
      .dstAddr, .whole].map (fun sel => decodeAct State.reset.situation (.header sel .port)) =
    [.instr (.decVersion .port), .instr (.decIhl .port), .instr (.decTos .port), .instr (.decTotalLength .port),
     .instr (.decIdentification .port), .instr (.decFlags .port), .instr (.decFragOffset .port), .instr (.decTtl .port),
     .instr (.decProtocol .port), .instr (.decChecksum .port), .instr (.decSrcAddr .port), .instr (.decDstAddr .port),
     .instr (.decode .port)] := by decide

theorem test_commands :
    decodeAct State.reset.situation (.start true) = .instr (.cmdStart true) ∧
    decodeAct State.reset.situation .reset = .instr .cmdReset := by decide

theorem test_count_rows :
    decodeAct (countState 0 0 0 0).situation (.answer (.byte 2)) = .instr (.recCount (.byte 2)) ∧
    decodeAct (countState 0 0 0 0).situation (.answer .eos) = .instr .clsCountEmpty ∧
    decodeAct (countState 0 0 0 0).situation (.answer .fail) = .instr (.recCount .fail) ∧
    decodeAct (countState 1 1 0 0).situation (.answer .eos) = .instr (.recCount .eos) ∧
    decodeAct (countState 3 0 0 0).situation (.answer (.byte 0)) = .instr (.clsCountNone 0) ∧
    decodeAct (countState 3 1 0 0).situation (.answer (.byte 0)) = .instr (.clsCountFrames 0) ∧
    decodeAct (countState 3 0xFF 0xFF 0xFF).situation (.answer (.byte 0x7F)) = .instr (.clsCountFrames 0x7F) := by decide

theorem test_size_rows :
    decodeAct (sizeState 0 0 0 0).situation (.answer (.byte 0x14)) = .instr (.recSize (.byte 0x14)) ∧
    decodeAct (sizeState 0 0 0 0).situation (.answer .eos) = .instr (.recSize .eos) ∧
    decodeAct (sizeState 3 0x01 0x08 0).situation (.answer (.byte 0)) = .instr (.clsSizeOverflow 0) ∧
    decodeAct (sizeState 3 0x00 0x08 0).situation (.answer (.byte 0)) = .instr (.clsSizeAccept 0) ∧
    decodeAct (sizeState 3 0x14 0x00 0).situation (.answer (.byte 0)) = .instr (.clsSizeAccept 0) ∧
    decodeAct (sizeState 3 0x13 0x00 0).situation (.answer (.byte 0)) = .instr (.clsSizeUndersize 0) ∧
    decodeAct (sizeState 3 0xFF 0xFF 0xFF).situation (.answer (.byte 0xFF)) = .instr (.clsSizeUndersize 0xFF) := by decide

theorem test_body_rows :
    decodeAct (bodyState [] 0 20 1).situation (.answer (.byte 0x45)) = .instr (.recBody (.byte 0x45)) ∧
    decodeAct (doneState h1).situation (.answer (.byte 0x45)) = .reject .noRequest := by decide

/-! ## Operations asked for on their own (95_test_vectors.md, sections 2 and 3) -/

theorem test_merge16_order :
    shown (exec (.merge16 0x12 0x34) State.reset) (·.out) = some (.half 0x1234) ∧
    shown (exec (.merge16 0x34 0x12) State.reset) (·.out) = some (.half 0x3412) := by decide

theorem test_merge16_corners :
    shown (exec (.merge16 0x1F 0xFF) State.reset) (·.out) = some (.half 8191) ∧
    shown (exec (.merge16 0xFF 0x00) State.reset) (·.out) = some (.half 65280) := by decide

theorem test_dec_version :
    shown (exec (.decVersion (.given h1)) State.reset) (·.out) = some (.nibble 4) ∧
    shown (exec (.decVersion (.given h3)) State.reset) (·.out) = some (.nibble 4) := by decide

theorem test_dec_ihl :
    shown (exec (.decIhl (.given h1)) State.reset) (·.out) = some (.nibble 5) ∧
    shown (exec (.decIhl (.given h3)) State.reset) (·.out) = some (.nibble 6) := by decide

theorem test_dec_tos :
    shown (exec (.decTos (.given h1)) State.reset) (·.out) = some (.byte 0) ∧
    shown (exec (.decTos (.given h3)) State.reset) (·.out) = some (.byte 184) := by decide

theorem test_dec_total_length :
    shown (exec (.decTotalLength (.given h1)) State.reset) (·.out) = some (.half 60) ∧
    shown (exec (.decTotalLength (.given h3)) State.reset) (·.out) = some (.half 1500) := by decide

theorem test_dec_identification :
    shown (exec (.decIdentification (.given h1)) State.reset) (·.out) = some (.half 7238) ∧
    shown (exec (.decIdentification (.given h3)) State.reset) (·.out) = some (.half 43981) := by decide

theorem test_dec_flags :
    shown (exec (.decFlags (.given h1)) State.reset) (·.out) = some (.byte 64) ∧
    shown (exec (.decFlags (.given h3)) State.reset) (·.out) = some (.byte 160) := by decide

theorem test_dec_frag_offset :
    shown (exec (.decFragOffset (.given h1)) State.reset) (·.out) = some (.offset 0) ∧
    shown (exec (.decFragOffset (.given h3)) State.reset) (·.out) = some (.offset 1340) := by decide

theorem test_dec_ttl :
    shown (exec (.decTtl (.given h1)) State.reset) (·.out) = some (.byte 64) ∧
    shown (exec (.decTtl (.given h3)) State.reset) (·.out) = some (.byte 1) := by decide

theorem test_dec_protocol :
    shown (exec (.decProtocol (.given h1)) State.reset) (·.out) = some (.byte 6) ∧
    shown (exec (.decProtocol (.given h3)) State.reset) (·.out) = some (.byte 200) := by decide

theorem test_dec_checksum :
    shown (exec (.decChecksum (.given h1)) State.reset) (·.out) = some (.half 45542) ∧
    shown (exec (.decChecksum (.given h3)) State.reset) (·.out) = some (.half 65535) := by decide

theorem test_dec_src_addr :
    shown (exec (.decSrcAddr (.given h1)) State.reset) (·.out) = some (.octets #v[172, 16, 10, 99]) ∧
    shown (exec (.decSrcAddr (.given h3)) State.reset) (·.out) = some (.octets #v[127, 0, 0, 1]) := by decide

theorem test_dec_dst_addr :
    shown (exec (.decDstAddr (.given h1)) State.reset) (·.out) = some (.octets #v[172, 16, 10, 12]) ∧
    shown (exec (.decDstAddr (.given h3)) State.reset) (·.out) = some (.octets #v[255, 255, 255, 255]) := by decide

theorem test_decode :
    shown (exec (.decode (.given h1)) State.reset) (·.out) = some (.header h1Fields) ∧
    shown (exec (.decode (.given h3)) State.reset) (·.out) = some (.header h3Fields) := by decide

/-- Flag and offset bits do not leak into each other. -/
theorem test_byte_six_corners :
    [(0xE0, 0x00), (0x1F, 0xFF), (0x20, 0x00), (0x01, 0x00), (0xFF, 0xFF)].map (fun b : Byte × Byte =>
      let h := bodyHeader [0, 0, 0, 0, 0, 0, b.1, b.2]
      (flagsOf h, fragOffsetOf h)) = [(224, 0), (0, 8191), (32, 0), (0, 256), (224, 8191)] := by decide

/-- Byte 0: 0x0F, 0xF0 and 0xFF. -/
theorem test_byte_zero_corners :
    [0x0F, 0xF0, 0xFF].map (fun b : Byte => (versionOf (bodyHeader [b]), ihlOf (bodyHeader [b]))) =
      [(0, 15), (15, 0), (15, 15)] := by decide

/-- The bytes past the twentieth are not read, and nineteen are too few (40_decoder.md R115, R116). -/
theorem test_given_lengths :
    shown (exec (.decode (.given (h1 ++ [1, 2, 3]))) State.reset) (·.out) = some (.header h1Fields) ∧
    refusal (exec (.decode (.given (h1.take 19))) State.reset) = some .shortHeader := by decide

/-- The port inside its window. -/
theorem test_port_inside_the_window :
    shown (step (withActs (doneState h1) [.header .whole .port])) (·.out) = some (.header h1Fields) ∧
    shown (step (withActs (doneState h1) [.readClass])) (·.out) = some (.protoClass 3) := by decide

theorem test_protocol_classes :
    [Instr.protoIcmp, .protoIgmp, .protoTcp, .protoIgrp, .protoUdp, .protoGre, .protoEsp, .protoAh, .protoSkip, .protoEigrp,
      .protoOspf, .protoL2tp, .protoUnknown 200].map (fun i => shown (exec i State.reset) (·.out)) =
    [some (.protoClass 1), some (.protoClass 2), some (.protoClass 3), some (.protoClass 4), some (.protoClass 5),
     some (.protoClass 6), some (.protoClass 7), some (.protoClass 8), some (.protoClass 9), some (.protoClass 10),
     some (.protoClass 11), some (.protoClass 12), some (.protoClass 0)] := by decide

theorem test_default_row_is_not_for_a_known_number :
    refusal (exec (.protoUnknown 6) State.reset) = some .rowNotSelected := by decide

/-- The source's example S3. -/
theorem test_protocol_names :
    [6, 17, 200].map (fun pr : Byte => protoName (protoClass pr)) = [some "TCP", some "UDP", some "Unknown protocol"] := by decide

/-- A table word runs as the next step, and nothing of the block changes. -/
theorem test_fetch_word_runs :
    shown (step (State.reset.withFetchWord 8 0x06)) (fun t => (t.out, t.phase, t.inbox)) =
      some (.protoClass 3, .idle, []) := by decide

/-! ## Commands (41_reader.md R141, vectors V5, V23, V24) -/

theorem test_start_opens :
    shown (exec (.cmdStart true) State.reset) (fun t => (t.phase, t.pos, t.events)) = some (.count, 0, []) := by decide

theorem test_start_not_opened :
    shown (exec (.cmdStart false) State.reset) (fun t => (statusWord t, t.events)) =
      some (0x0000100D, [.error .open .none]) := by decide

theorem test_start_after_done_is_refused :
    refusal (exec (.cmdStart true) (doneState h1)) = some .startOutsideIdle := by decide

theorem test_reset_clears :
    shown (exec .cmdReset (doneState h1)) (fun t => (statusWord t, t.events, t.pos, t.hdr, t.bodyIdx)) =
      some (0, [], 0, Vector.replicate 20 0, 0) := by decide

/-! ## Record rows, one step each (the examples of 41_reader.md; STATUS from 95_test_vectors.md, section 4) -/

/-- R143's example. -/
theorem test_rec_count_byte :
    shown (exec (.recCount (.byte 0x02)) (countState 0 0 0 0)) (fun t => (t.preBuf[0], t.preIdx, t.pos, t.phase)) =
      some (0x02, 1, 1, .count) := by decide

/-- V2's last step, V4 and V20. -/
theorem test_rec_count_cut :
    shown (exec (.recCount .eos) (countState 2 1 0 0)) (fun t => (statusWord t, t.events, t.pos)) =
      some (0x00001255, [.error .format .count], 2) ∧
    shown (exec (.recCount .fail) (countState 0 0 0 0)) (fun t => (statusWord t, t.events)) =
      some (0x00001055, [.error .format .count]) ∧
    shown (exec (.recCount .fail) (countState 3 1 0 0)) statusWord = some 0x00001355 := by decide

/-- R148's example. -/
theorem test_rec_size_byte :
    shown (exec (.recSize (.byte 0x14)) (sizeState 0 0 0 0)) (fun t => (t.preBuf[0], t.preIdx, t.pos, t.phase)) =
      some (0x14, 1, 5, .size) := by decide

/-- V21 and V18: the end of the file where a size should start, and inside one. -/
theorem test_rec_size_cut :
    shown (exec (.recSize .fail) (sizeState 0 0 0 0)) (fun t => (statusWord t, t.events)) =
      some (0x00001095, [.count 1, .error .format .size]) ∧
    shown (exec (.recSize .eos) (sizeState 2 0x14 0 0)) statusWord = some 0x00001295 := by decide

/-- R153's example; byte 20 reaches only `body_idx` and `pos` (R155); V14's last step. -/
theorem test_rec_body_not_last :
    shown (exec (.recBody (.byte 0x45)) (bodyState [] 0 24 1)) (fun t => (t.hdr[0], t.bodyIdx)) = some (0x45, 1) ∧
    shown (exec (.recBody (.byte 0x01)) (bodyState h1 20 24 1)) (fun t => (t.hdr, t.bodyIdx, t.pos)) =
      some (bodyHeader h1, 21, 29) ∧
    shown (exec (.recBody .eos) (bodyState h1 22 24 1)) (fun t => (statusWord t, t.events, t.bodyIdx)) =
      some (0x000010D5, [.count 1, .error .format .body], 22) := by decide

/-- V6's last step, and the same byte with a second frame to come (R157): byte 19 is part of the decode (R156). -/
theorem test_rec_body_last :
    shown (exec (.recBody (.byte 0x0C)) (bodyState (h1.take 19) 19 20 1)) (fun t => (statusWord t, t.events, t.framesDone)) =
      some (0x00000804, [.count 1, .frame 0 h1Fields 3, .done], 1) ∧
    shown (exec (.recBody (.byte 0x0C)) (bodyState (h1.take 19) 19 20 2)) (fun t => (t.phase, t.events)) =
      some (.size, [.count 2, .frame 0 h1Fields 3]) := by decide

/-- A body byte past the size has no rule (R153, R43). -/
theorem test_rec_body_past_the_end :
    shown (exec (.recBody (.byte 0)) (bodyState h1 20 20 1)) (·.phase) = none ∧
    refusal (exec (.recBody (.byte 0)) (countState 0 0 0 0)) = some .rowNotSelected := by decide

/-! ## Class rows -/

/-- V1. -/
theorem test_cls_count_empty :
    shown (exec .clsCountEmpty (countState 0 0 0 0)) (fun t => (statusWord t, t.events, t.pos)) =
      some (0x00000804, [.count 0, .done], 0) ∧
    refusal (exec .clsCountEmpty (countState 1 0 0 0)) = some .rowNotSelected := by decide

/-- V3 and V15. -/
theorem test_cls_count_none :
    shown (exec (.clsCountNone 0) (countState 3 0 0 0)) (fun t => (statusWord t, t.events, t.pos)) =
      some (0x00000804, [.count 0, .done], 4) ∧
    shown (exec (.clsCountNone 0xFF) (countState 3 0xFF 0xFF 0xFF)) (fun t => (statusWord t, t.count.toInt)) =
      some (0x00000804, -1) := by decide

/-- R145's example, in both byte orders. -/
theorem test_cls_count_frames :
    shown (exec (.clsCountFrames 0) (countState 3 3 0 0)) (fun t => (t.phase, t.count, t.preIdx, t.events)) =
      some (.size, 3, 0, [.count 3]) ∧
    shown (exec (.clsCountFrames 0) { countState 3 3 0 0 with prefixOrder := .be }) (·.count) = some 50331648 := by decide

/-- V9 and V8. -/
theorem test_cls_size_overflow :
    shown (exec (.clsSizeOverflow 0) (sizeState 3 0x88 0x13 0)) (fun t => (statusWord t, t.fsize, t.pos, t.events)) =
      some (0x0000109D, 5000, 8, [.count 1, .error .overflow .size]) ∧
    shown (exec (.clsSizeOverflow 0) (sizeState 3 0x01 0x08 0)) (fun t => (statusWord t, t.fsize)) =
      some (0x0000109D, 2049) := by decide

/-- R150's example, and V7's size. -/
theorem test_cls_size_accept :
    shown (exec (.clsSizeAccept 0) (sizeState 3 0x14 0 0)) (fun t => (t.phase, t.fsize, t.bodyIdx)) = some (.body, 20, 0) ∧
    shown (exec (.clsSizeAccept 0) (sizeState 3 0x00 0x08 0)) (fun t => (t.phase, t.fsize)) = some (.body, 2048) := by decide

/-- V10 and V12. -/
theorem test_cls_size_undersize :
    shown (exec (.clsSizeUndersize 0) (sizeState 3 0x13 0 0)) (fun t => (statusWord t, t.fsize)) =
      some (0x000010A5, 19) ∧
    shown (exec (.clsSizeUndersize 0xFF) (sizeState 3 0xFF 0xFF 0xFF)) (fun t => (statusWord t, t.fsize.toInt)) =
      some (0x000010A5, -1) := by decide

/-- A class row whose value is in another class is not selected. -/
theorem test_class_rows_check_their_value :
    [Instr.clsCountNone 0, .clsCountFrames 0].map (fun i => refusal (exec i (countState 3 1 0 0))) =
      [some .rowNotSelected, none] ∧
    [Instr.clsSizeOverflow 0, .clsSizeAccept 0, .clsSizeUndersize 0].map (fun i => refusal (exec i (sizeState 3 0x14 0 0))) =
      [some .rowNotSelected, none, some .rowNotSelected] := by decide

/-! ## Registers and waiting -/

/-- V25, and P1's PREFIX value. -/
theorem test_register_reads :
    shown (step (withActs State.reset [.readReg 9])) (·.out) = some (.register 0) ∧
    refusal (step (withActs State.reset [.writeReg 0 1])) = some .registerWrite ∧
    refusal (step (withActs State.reset [.readReg 16])) = some .registerNumber ∧
    statusRegister { State.reset with preBuf := #v[0x18, 0, 0, 0] } 7 = some 0x18 ∧
    statusRegister { State.reset with pos := 0x100000002 } 6 = some 1 := by decide

theorem test_nothing_to_do :
    waiting State.reset = .awaitingStart ∧ waiting (countState 0 0 0 0) = .awaitingAnswer ∧
      waiting (doneState h1) = .finished := by decide

theorem test_completion :
    (doneState h1).completion = some .success ∧ { doneState h1 with phase := .error }.completion = some .failure ∧
      State.reset.completion = none := by decide

/-! ## Witnesses: states and operands that meet the hypotheses of each statement -/

theorem step_not_reset {s : State} {act : HostAct} {rest : List HostAct} (h : s.inbox = act :: rest) (hn : act ≠ .reset) :
    ¬ Takes s .reset := by
  rintro ⟨r, hr⟩
  rw [h] at hr
  exact hn (List.cons.inj hr).1

/-- A state about to complete the only frame of its run. -/
def lastByte : State := withActs (bodyState (h1.take 19) 19 20 1) [.answer (.byte 0x0C)]

/-- A state that has completed one of two frames and accepted the second. -/
def secondBody (i : BitVec 12) : State :=
  { bodyState h1 i 20 2 with framesDone := 1, events := [.count 2, .frame 0 h1Fields 3] }

theorem lastByte_inv : lastByte.Inv where
  phase_le := by decide
  errCode_le := by decide
  errCode_iff := by decide
  before_count := by decide
  frames_left := by decide
  in_body := by decide
  at_done := by decide
  log := ⟨[], rfl, trivial, rfl⟩

theorem secondBody_inv (i : BitVec 12) (acts : List HostAct) (h : i.toNat < 20) : (withActs (secondBody i) acts).Inv where
  phase_le := by show (3 : BitVec 3).toNat ≤ 5; decide
  errCode_le := Nat.zero_le _
  errCode_iff := ⟨fun h => absurd rfl h, fun h => by cases h⟩
  before_count := by rintro (h | h) <;> cases h
  frames_left := fun _ => by show ((1 : Word).toNat : Int) < (2 : Word).toInt; decide
  in_body := fun _ => ⟨by show 20 ≤ (20 : Word).toInt; decide, by show (20 : Word).toInt ≤ 2048; decide, by
    show (i.toNat : Int) < (20 : Word).toInt
    have : (20 : Word).toInt = 20 := by decide
    omega⟩
  at_done := fun h => by cases h
  log := ⟨[.frame 0 h1Fields 3], rfl, ⟨⟨h1Fields, rfl⟩, trivial⟩, rfl⟩

theorem doneState_inv (acts : List HostAct) : (withActs (doneState h1) acts).Inv where
  phase_le := by show (4 : BitVec 3).toNat ≤ 5; decide
  errCode_le := Nat.zero_le _
  errCode_iff := ⟨fun h => absurd rfl h, fun h => by cases h⟩
  before_count := by rintro (h | h) <;> cases h
  frames_left := by rintro (h | h) <;> cases h
  in_body := fun h => by cases h
  at_done := fun _ => by show ((1 : Word).toNat : Int) = max (1 : Word).toInt 0; decide
  log := ⟨[_], rfl, ⟨⟨_, rfl⟩, trivial⟩, rfl⟩

/-- The boundary values of every row's situation. -/
theorem witness_EncodedRowsDecodeBack :
    (Instr.decode (.given h1)).wellFormed = true ∧ State.reset.situation.admits (.decode (.given h1)) ∧
    (countState 2 0 0 0).situation.admits (.recCount (.byte 1)) ∧ (countState 1 0 0 0).situation.admits (.recCount .eos) ∧
    (countState 0 0 0 0).situation.admits .clsCountEmpty ∧ (countState 3 0 0 0).situation.admits (.clsCountNone 0) ∧
    (countState 3 1 0 0).situation.admits (.clsCountFrames 0) ∧ (sizeState 0 0 0 0).situation.admits (.recSize .eos) ∧
    (sizeState 3 1 8 0).situation.admits (.clsSizeOverflow 0) ∧ (sizeState 3 0 8 0).situation.admits (.clsSizeAccept 0) ∧
    (sizeState 3 20 0 0).situation.admits (.clsSizeAccept 0) ∧ (sizeState 3 19 0 0).situation.admits (.clsSizeUndersize 0) ∧
    (bodyState [] 0 20 1).situation.admits (.recBody .fail) := by
  refine ⟨by decide, trivial, ?_, ?_, ?_, ?_, ?_, rfl, ?_, ?_, ?_, ?_, rfl⟩ <;> refine ⟨rfl, ?_⟩ <;> decide

theorem witness_DecodedRowsAreWellFormedAndAdmitted :
    decodeAct (sizeState 3 20 0 0).situation (.answer (.byte 0)) = .instr (.clsSizeAccept 0) ∧
    encode (.clsSizeAccept 0) = .answer (.byte 0) ∧ (Instr.clsSizeAccept 0).wellFormed = true ∧
    (sizeState 3 20 0 0).situation.admits (.clsSizeAccept 0) :=
  ⟨by decide, rfl, rfl, rfl, by decide⟩

theorem witness_HeaderDirectiveDecodesBack : h1Fields.flags.toNat % 32 = 0 ∧ h3Fields.flags.toNat % 32 = 0 := by decide

theorem witness_HeaderRowsCompleteOnGivenBytes : 20 ≤ h1.length ∧ h1.length = 20 := by decide

/-- In DONE, and in a body of which no byte has been consumed. -/
theorem witness_HeaderRowsCompleteThroughTheOpenPort : DecWindow (doneState h1) ∧ DecWindow (secondBody 0) := by
  constructor <;> refine ⟨by decide, ?_⟩ <;> decide

/-- Before any frame, in a body of which a byte has been consumed, and after an error in one. -/
theorem witness_HeaderRowsCompleteThroughTheClosedPort :
    ¬ DecWindow State.reset ∧ ¬ DecWindow (secondBody 1) ∧
    ¬ DecWindow { secondBody 1 with phase := .error, errCode := .format, errField := .body } := by
  refine ⟨?_, ?_, ?_⟩ <;> rintro ⟨h, h'⟩ <;> revert h h' <;> decide

theorem witness_ShortHeadersAreRefused :
    (h1.take 19).length < 20 ∧ Takes (withActs State.reset [.header .ttl (.given (h1.take 19))]) (.header .ttl (.given (h1.take 19))) :=
  ⟨by decide, [], rfl⟩

theorem witness_ProtocolRowsComplete :
    (0 : Byte) ∉ protocolTable.map (fun row => row.1) ∧ (115 : Byte) ∈ protocolTable.map (fun row => row.1) := by decide

theorem witness_ProtocolNumberStepShowsItsClass : (withActs State.reset [.word [6]]).inbox = .word [6] :: [] := rfl

theorem witness_ClassPortFollowsTheWindow :
    (withActs (doneState h1) [.readClass]).inbox = .readClass :: [] ∧ DecWindow (withActs (doneState h1) [.readClass]) ∧
    (withActs State.reset [.readClass]).inbox = .readClass :: [] ∧ ¬ DecWindow (withActs State.reset [.readClass]) := by
  refine ⟨rfl, ⟨by decide, by decide⟩, rfl, ?_⟩
  rintro ⟨h, -⟩
  exact h rfl

theorem witness_StartOpensOrRaisesOrIsRefused : State.reset.phase = .idle ∧ (countState 0 0 0 0).phase ≠ .idle := by decide

/-- The first and the last of the three bytes, of a count and of a size. -/
theorem witness_FirstThreeBytesAreStored :
    (countState 0 0 0 0).phase = .count ∧ (countState 0 0 0 0).preIdx.toNat < 3 ∧ (countState 2 1 0 0).preIdx.toNat < 3 ∧
    (sizeState 0 0 0 0).phase = .size ∧ (sizeState 2 20 0 0).preIdx.toNat < 3 := by decide

theorem witness_EmptyStreamMeansNoFrames : (countState 0 0 0 0).phase = .count ∧ (countState 0 0 0 0).preIdx = 0 := by decide

/-- The counts 0, -1, 1 and the largest. -/
theorem witness_CompletedCountEndsOrGoesOn :
    (countState 3 0 0 0).phase = .count ∧ (countState 3 0 0 0).preIdx = 3 ∧
    held (countState 3 0 0 0) 0 = 0 ∧ held (countState 3 0xFF 0xFF 0xFF) 0xFF = -1 ∧ held (countState 3 1 0 0) 0 = 1 ∧
    held (countState 3 0xFF 0xFF 0xFF) 0x7F = 2147483647 := by decide

theorem witness_CutCountRaisesFormat :
    (countState 1 0 0 0).phase = .count ∧ (countState 1 0 0 0).preIdx ≠ 0 ∧ (countState 0 0 0 0).phase = .count := by decide

theorem witness_CutSizeRaisesFormat : (sizeState 0 0 0 0).phase = .size := by decide

/-- The sizes 2049, 2048, 20, 19 and -1. -/
theorem witness_CompletedSizeIsBounded :
    (sizeState 3 0 0 0).phase = .size ∧ (sizeState 3 0 0 0).preIdx = 3 ∧
    held (sizeState 3 1 8 0) 0 = 2049 ∧ held (sizeState 3 0 8 0) 0 = 2048 ∧ held (sizeState 3 20 0 0) 0 = 20 ∧
    held (sizeState 3 19 0 0) 0 = 19 ∧ held (sizeState 3 0xFF 0xFF 0xFF) 0xFF = -1 := by decide

/-- Body bytes 19 and 20 of 24. -/
theorem witness_BodyBytesAreStoredOrDropped :
    (bodyState h1 19 24 1).phase = .body ∧ ((bodyState h1 19 24 1).bodyIdx.toNat : Int) + 1 < (bodyState h1 19 24 1).fsize.toInt ∧
    ((bodyState h1 20 24 1).bodyIdx.toNat : Int) + 1 < (bodyState h1 20 24 1).fsize.toInt := by decide

/-- The last byte of a frame of 20 and of one of 2048, the last frame and not the last. -/
theorem witness_LastBodyByteReportsTheFrame :
    lastByte.phase = .body ∧ (lastByte.bodyIdx.toNat : Int) + 1 = lastByte.fsize.toInt ∧ lastByte.framesDone + 1 = lastByte.count ∧
    ((bodyState h1 2047 2048 2).bodyIdx.toNat : Int) + 1 = (bodyState h1 2047 2048 2).fsize.toInt ∧
    (bodyState h1 2047 2048 2).framesDone + 1 ≠ (bodyState h1 2047 2048 2).count := by decide

theorem witness_CutBodyRaisesFormat : (bodyState h1 0 20 1).phase = .body := by decide

theorem witness_RecordRowsAgreeWithTheSelectedRow :
    selectRow (countState 3 1 0 0).situation (.byte 0) = some (.clsCountFrames 0) ∧
    selectRow (sizeState 0 0 0 0).situation .eos = some (.recSize .eos) ∧
    selectRow lastByte.situation (.byte 0) = some (.recBody (.byte 0)) := by decide

theorem witness_RowsOutsideTheirSituationAreRefused :
    ¬ (countState 3 1 0 0).situation.admits (.clsCountNone 0) ∧ ¬ (sizeState 3 20 0 0).situation.admits (.clsSizeUndersize 0) ∧
    State.reset.phase ≠ .count ∧ State.reset.phase ≠ .size ∧ State.reset.phase ≠ .body := by
  refine ⟨?_, ?_, by decide, by decide, by decide⟩ <;> rintro ⟨-, -, h⟩ <;> revert h <;> decide

theorem witness_StepRunsTheDecodedRow :
    lastByte.inbox = .answer (.byte 0x0C) :: [] ∧
    decodeAct lastByte.situation (.answer (.byte 0x0C)) = .instr (.recBody (.byte 0x0C)) := by decide

theorem witness_NothingFromTheHostMeansWaiting :
    State.reset.inbox = [] ∧ State.reset.phase = .idle ∧ (countState 0 0 0 0).inbox = [] ∧ (countState 0 0 0 0).busy = true ∧
    (doneState h1).inbox = [] ∧ (doneState h1).phase = .done := by decide

theorem witness_FinalPhasesAreLeftOnlyByReset :
    (doneState h1).phase = .done ∧ Takes (withActs (doneState h1) [.answer .eos]) (.answer .eos) ∧
    Takes (withActs (doneState h1) [.start true]) (.start true) ∧
    (∃ t, step (withActs (doneState h1) [.readReg 0]) = .next t) ∧ ¬ Takes (withActs (doneState h1) [.readReg 0]) .reset :=
  ⟨rfl, ⟨_, rfl⟩, ⟨_, rfl⟩, ⟨_, rfl⟩, step_not_reset rfl (by decide)⟩

theorem witness_AnswersWithoutARequestAreRefused :
    (withActs State.reset [.answer .eos]).busy = false ∧ Takes (withActs State.reset [.answer .eos]) (.answer .eos) := ⟨rfl, _, rfl⟩

/-- For every statement about a step that is not Reset. -/
theorem witness_EventsAreOnlyAppended :
    (∃ t, step lastByte = .next t ∧ t.events = [.count 1, .frame 0 h1Fields 3, .done]) ∧ ¬ Takes lastByte .reset :=
  ⟨⟨_, rfl, by decide⟩, step_not_reset rfl (by decide)⟩

theorem witness_PosCountsConsumedBytes :
    (∃ t, step lastByte = .next t ∧ t.pos ≠ lastByte.pos) ∧ Takes lastByte (.answer (.byte 0x0C)) ∧
    (∃ t, step (withActs (sizeState 0 0 0 0) [.answer .eos]) = .next t) ∧
    (∃ t, step (withActs State.reset [.start true]) = .next t) :=
  ⟨⟨_, rfl, by decide⟩, ⟨_, rfl⟩, ⟨_, rfl⟩, ⟨_, rfl⟩⟩

/-- A failed Start, an `EOS` and a `Fail`, and the bytes that complete the sizes 2049 and 19. -/
theorem witness_ErrorEntryRecordsReportsAndReleases :
    (∃ t, step (withActs State.reset [.start false]) = .next t ∧ State.reset.phase ≠ .error ∧ t.phase = .error) ∧
    (∃ t, step (withActs (countState 1 1 0 0) [.answer .eos]) = .next t ∧ t.phase = .error) ∧
    (∃ t, step (withActs (bodyState h1 19 20 1) [.answer .fail]) = .next t ∧ t.phase = .error) ∧
    (∃ t, step (withActs (sizeState 3 1 8 0) [.answer (.byte 0)]) = .next t ∧ t.phase = .error ∧ t.errCode = .overflow) ∧
    (∃ t, step (withActs (sizeState 3 19 0 0) [.answer (.byte 0)]) = .next t ∧ t.phase = .error ∧ t.errCode = .undersize) :=
  ⟨⟨_, rfl, by decide, by decide⟩, ⟨_, rfl, by decide⟩, ⟨_, rfl, by decide⟩, ⟨_, rfl, by decide, by decide⟩,
    ⟨_, rfl, by decide, by decide⟩⟩

theorem witness_ErrorRegistersAreSticky :
    (∃ t, step (withActs (sizeState 3 1 8 0) [.answer (.byte 0)]) = .next t) ∧
    ¬ Takes (withActs (sizeState 3 1 8 0) [.answer (.byte 0)]) .reset := ⟨⟨_, rfl⟩, step_not_reset rfl (by decide)⟩

theorem witness_ByteOrderNeverChanges : ∃ t, step (withActs { countState 0 0 0 0 with prefixOrder := .be } [.reset]) = .next t :=
  ⟨_, rfl⟩

theorem witness_HeaderRegistersAreWrittenOnlyByBodyBytes : ∃ t, step lastByte = .next t ∧ t.hdr ≠ lastByte.hdr :=
  ⟨_, rfl, by decide⟩

theorem witness_CountIsWrittenOnlyWhenItIsRead :
    ∃ t, step (withActs (countState 3 1 0 0) [.answer (.byte 0)]) = .next t ∧ t.count ≠ (countState 3 1 0 0).count :=
  ⟨_, rfl, by decide⟩

/-- The first and the second frame. -/
theorem witness_FramesDoneCountsReportedFrames :
    lastByte.Inv ∧ (∃ t, step lastByte = .next t ∧ t.framesDone = 1) ∧ ¬ Takes lastByte .reset ∧
    (withActs (secondBody 19) [.answer (.byte 0)]).Inv ∧
    (∃ t, step (withActs (secondBody 19) [.answer (.byte 0)]) = .next t ∧ t.framesDone = 2) :=
  ⟨lastByte_inv, ⟨_, rfl, by decide⟩, step_not_reset rfl (by decide), secondBody_inv 19 _ (by decide), ⟨_, rfl, by decide⟩⟩

theorem witness_PhasesFollowTheSequence : ∃ t, step lastByte = .next t ∧ t.phase ≠ lastByte.phase := ⟨_, rfl, by decide⟩

theorem witness_EveryStepKeepsTheInvariant :
    lastByte.Inv ∧ (∃ t, step lastByte = .next t) ∧ (withActs (secondBody 0) [.answer .fail]).Inv ∧
    (∃ t, step (withActs (secondBody 0) [.answer .fail]) = .next t) :=
  ⟨lastByte_inv, ⟨_, rfl⟩, secondBody_inv 0 _ (by decide), ⟨_, rfl⟩⟩

theorem witness_InvariantBoundsTheEventLog :
    (withActs (doneState h1) []).Inv ∧ ∃ before, (withActs (doneState h1) []).events = before ++ .done :: [] :=
  ⟨doneState_inv [], [_, _], rfl⟩

theorem witness_BusyReaderTakesEveryAnswer :
    lastByte.Inv ∧ lastByte.busy = true ∧ Takes lastByte (.answer (.byte 0x0C)) := ⟨lastByte_inv, rfl, _, rfl⟩

theorem witness_OwnOperationsAndReadsHaveNoSideEffect :
    (∃ t, step (withActs lastByte [.word [6]]) = .next t) ∧ (∃ t, step (withActs lastByte [.header .whole (.given h1)]) = .next t) ∧
    (∃ t, step (withActs (doneState h1) [.readClass]) = .next t) ∧ (∃ t, step (withActs lastByte [.readReg 15]) = .next t) :=
  ⟨⟨_, rfl⟩, ⟨_, rfl⟩, ⟨_, rfl⟩, ⟨_, rfl⟩⟩

/-- A byte that reports a frame, one that does not, Reset, and an act that moves no window. -/
theorem witness_DecWindowFollowsTheFrames :
    (lastByte.Inv ∧ ∃ t, step lastByte = .next t ∧ ∃ k d p new, t.events = lastByte.events ++ .frame k d p :: new) ∧
    ((withActs (secondBody 0) [.answer (.byte 1)]).Inv ∧
      ∃ t, step (withActs (secondBody 0) [.answer (.byte 1)]) = .next t ∧ t.events = (secondBody 0).events) ∧
    ((withActs (doneState h1) [.reset]).Inv ∧ ∃ t, step (withActs (doneState h1) [.reset]) = .next t) ∧
    ((withActs (doneState h1) [.readReg 0]).Inv ∧ ∃ t, step (withActs (doneState h1) [.readReg 0]) = .next t) :=
  ⟨⟨lastByte_inv, _, rfl, _, _, _, _, rfl⟩, ⟨secondBody_inv 0 _ (by decide), _, rfl, by decide⟩,
    ⟨doneState_inv _, _, rfl⟩, ⟨doneState_inv _, _, rfl⟩⟩

/-- The registers 0, 7, 8, 15 and 16, and a write. -/
theorem witness_RegisterMapReadsAndRefuses :
    ([0, 7, 8, 15, 16].all fun n => (withActs lastByte [.readReg n]).inbox == [.readReg n]) = true ∧
    (withActs lastByte [.writeReg 0 0]).inbox = .writeReg 0 0 :: [] := by decide

/-- Counts of 0 and 1. -/
theorem witness_CountIsReadInFourSteps :
    let s := countState 0 0 0 0
    s.phase = .count ∧ s.preIdx = 0 ∧
    (withActs s (answers [1, 0, 0, 0])).inbox = answers (wordBytes s.prefixOrder 1) ++ [] ∧
    (withActs s (answers [0, 0, 0, 0])).inbox = answers (wordBytes s.prefixOrder 0) ++ [] := by decide

/-- The smallest and the largest frame. -/
theorem witness_FrameIsReadInFourPlusSizeSteps :
    let s := sizeState 0 0 0 0
    s.phase = .size ∧ s.preIdx = 0 ∧ 20 ≤ h1.length ∧ (List.replicate 2048 (0 : Byte)).length ≤ 2048 ∧
    (withActs s (answers ([0x14, 0, 0, 0] ++ h1))).inbox = answers (frameBytes s.prefixOrder h1) ++ [] :=
  ⟨rfl, rfl, by decide, by rw [List.length_replicate], by decide⟩

theorem witness_EarlierHeaderBytesLeakIntoNoFrame :
    (withActs (sizeState 0 0 0 0) (answers (frameBytes .le h3))).inbox = answers (frameBytes .le h3) ++ [] ∧
    20 ≤ h3.length ∧ h3.length ≤ 2048 := by decide

/-- Program P1 of 95_test_vectors.md: two frames, the second with four bytes past its header. -/
theorem witness_ContainerIsReadToDone :
    [h1, h2 ++ [0xDE, 0xAD, 0xBE, 0xEF]].length < 2147483648 ∧
    (∀ body ∈ [h1, h2 ++ [0xDE, 0xAD, 0xBE, 0xEF]], 20 ≤ body.length ∧ body.length ≤ 2048) ∧
    containerBytes .le [h1, h2 ++ [0xDE, 0xAD, 0xBE, 0xEF]] =
      [0x02, 0x00, 0x00, 0x00, 0x14, 0x00, 0x00, 0x00] ++ h1 ++ [0x18, 0x00, 0x00, 0x00] ++ h2 ++ [0xDE, 0xAD, 0xBE, 0xEF] := by
  decide

end Sys2Proof.Tests
end

section
/-! PROOFS. The invariant of 10_state.md R43 and 41_reader.md R163: each shared operation keeps it, so each effect does, so
every step does. -/

namespace Sys2Proof.Machine

open Sys2Proof.Claims

/-- The host presents one act at a time. -/
theorem takes_iff {s : State} {act : HostAct} {rest : List HostAct} (hin : s.inbox = act :: rest) (a : HostAct) :
    Takes s a ↔ a = act := by
  simp [Takes, hin, eq_comm]

/-- A step that answers a next state, with its act named. -/
theorem step_effect_takes {s t : State} (h : step s = .next t) : ∃ act, Effect act s.popped t ∧ ∀ a, Takes s a ↔ a = act := by
  obtain ⟨act, rest, hin, he⟩ := step_effect h
  exact ⟨act, he, takes_iff hin⟩

/-- The same of a step that is not Reset. -/
theorem step_effect_not_reset {s t : State} (h : step s = .next t) (hr : ¬ Takes s .reset) :
    ∃ act, act ≠ .reset ∧ Effect act s.popped t := by
  obtain ⟨act, he, htakes⟩ := step_effect_takes h
  exact ⟨act, fun hact => hr ((htakes _).mpr hact.symm), he⟩

theorem sameBlock_popped (s : State) : SameBlock s s.popped := ⟨s.inbox.tail, s.out, s.draws, rfl⟩

/-- The invariant speaks of the block's registers and its log only. -/
theorem State.Inv.of_sameBlock {s t : State} (h : s.Inv) (hb : SameBlock s t) : t.Inv := by
  obtain ⟨acts, v, n, rfl⟩ := hb
  exact ⟨h.phase_le, h.errCode_le, h.errCode_iff, h.before_count, h.frames_left, h.in_body, h.at_done, h.log⟩

theorem phaseBits_le (p : Phase) : (phaseBits p).toNat ≤ 5 := by cases p <;> decide

theorem errCodeBits_le (c : ErrCode) : (errCodeBits c).toNat ≤ 4 := by cases c <;> decide

theorem resetBlock_inv (s : State) : (resetBlock s).Inv where
  phase_le := phaseBits_le _
  errCode_le := errCodeBits_le _
  errCode_iff := by simp
  before_count := by simp
  frames_left := by simp
  in_body := by simp
  at_done := by simp
  log := rfl

/-! ### What the invariant says in each phase -/

theorem State.Inv.errCode_none {s : State} (h : s.Inv) (hp : s.phase ≠ .error) : s.errCode = .none := by
  by_contra hc
  exact hp (h.errCode_iff.mp hc)

/-- Before a count is read the log is empty. -/
theorem State.Inv.log_early {s : State} (h : s.Inv) (hp : s.phase = .idle ∨ s.phase = .count) : s.events = [] := by
  have hl := h.log
  rcases hp with hp | hp <;> simpa only [State.LogShape, hp] using hl

/-- While frames are read the log is the count and the frames done. -/
theorem State.Inv.log_reading {s : State} (h : s.Inv) (hp : s.phase = .size ∨ s.phase = .body) : s.LogIs [] := by
  have hl := h.log
  rcases hp with hp | hp <;> simpa only [State.LogShape, hp] using hl

theorem completeCount_logIs (b : Byte) {s : State} (he : s.events = []) : (completeCount b s).LogIs [] :=
  ⟨[], by simp [he], trivial, by simp⟩

/-- `LogIs` speaks of the count, the frames done and the log only. -/
theorem State.LogIs.congr {s t : State} {tail : List Event} (h : s.LogIs tail) (hc : t.count = s.count)
    (hf : t.framesDone = s.framesDone) (he : t.events = s.events) : t.LogIs tail := by
  simpa only [State.LogIs, hc, hf, he] using h

/-- One more event of the tail. -/
theorem State.LogIs.snoc {s t : State} {e : Event} (h : s.LogIs []) (hc : t.count = s.count)
    (hf : t.framesDone = s.framesDone) (he : t.events = s.events ++ [e]) : t.LogIs [e] := by
  obtain ⟨frames, hs, hframes, hlen⟩ := h
  exact ⟨frames, by simp [he, hs, hc], hframes, by rw [hlen, hf]⟩

/-! ### The invariant after each operation -/

theorem raiseErr_inv_early {code : ErrCode} {field : ErrField} {s : State} (h : s.Inv)
    (hp : s.phase = .idle ∨ s.phase = .count) (hc : EarlyCause code field) : (raiseErr code field s).Inv where
  phase_le := phaseBits_le _
  errCode_le := errCodeBits_le _
  errCode_iff := by rcases hc with ⟨rfl, -⟩ | ⟨rfl, -⟩ <;> simp
  before_count := by simp
  frames_left := by simp
  in_body := by simp
  at_done := by simp
  log := .inl ⟨hc, by simp [h.log_early hp], (h.before_count hp).2⟩

theorem raiseErr_inv_late {code : ErrCode} {field : ErrField} {s : State} (h : s.Inv)
    (hp : s.phase = .size ∨ s.phase = .body) (hc : LateCause code field) : (raiseErr code field s).Inv where
  phase_le := phaseBits_le _
  errCode_le := errCodeBits_le _
  errCode_iff := by rcases hc with ⟨rfl, -⟩ | ⟨rfl, -⟩ | ⟨rfl, -⟩ | ⟨rfl, -⟩ <;> simp
  before_count := by simp
  frames_left := by simp
  in_body := by simp
  at_done := by simp
  log := .inr ⟨hc, (h.log_reading hp).snoc rfl rfl rfl⟩

/-- The run ends when the frames done are the count, or none where the count is negative. -/
theorem finish_inv {s : State} (hc : s.errCode = .none) (hl : s.LogIs [])
    (hk : (s.framesDone.toNat : Int) = max s.count.toInt 0) : (finish s).Inv where
  phase_le := phaseBits_le _
  errCode_le := errCodeBits_le _
  errCode_iff := by simp [hc]
  before_count := by simp
  frames_left := by simp
  in_body := by simp
  at_done := fun _ => hk
  log := hl.snoc rfl rfl rfl

/-- The next size is read while frames are left. -/
theorem enterSize_inv {s : State} (hc : s.errCode = .none) (hl : s.LogIs [])
    (hk : (s.framesDone.toNat : Int) < s.count.toInt) : (enter .size s).Inv where
  phase_le := phaseBits_le _
  errCode_le := errCodeBits_le _
  errCode_iff := by simp [hc]
  before_count := by simp
  frames_left := fun _ => hk
  in_body := by simp
  at_done := by simp
  log := hl.congr rfl rfl rfl

theorem openStream_inv {s : State} (h : s.Inv) (hp : s.phase = .idle) :
    (enter .count { s with preIdx := 0, pos := 0 }).Inv where
  phase_le := phaseBits_le _
  errCode_le := errCodeBits_le _
  errCode_iff := by simp [h.errCode_none (hp ▸ by decide)]
  before_count := fun _ => h.before_count (.inl hp)
  frames_left := by simp
  in_body := by simp
  at_done := by simp
  log := h.log_early (.inl hp)

/-- `pos`, `pre_buf` and `pre_idx` are free, and so is `fsize` outside BODY. -/
theorem State.Inv.of_prefix {s t : State} (h : s.Inv) (hp : s.phase ≠ .body)
    (ht : ∃ pos buf idx n, t = { s with pos := pos, preBuf := buf, preIdx := idx, fsize := n }) : t.Inv := by
  obtain ⟨pos, buf, idx, n, rfl⟩ := ht
  exact ⟨h.phase_le, h.errCode_le, h.errCode_iff, h.before_count, h.frames_left, fun hb => absurd hb hp, h.at_done, h.log⟩

theorem storePrefixByte_inv (b : Byte) {s : State} (h : s.Inv) (hp : s.phase ≠ .body) : (storePrefixByte b s).Inv :=
  h.of_prefix hp ⟨_, _, _, _, rfl⟩

theorem completeSize_inv (b : Byte) {s : State} (h : s.Inv) (hp : s.phase ≠ .body) : (completeSize b s).Inv :=
  h.of_prefix hp ⟨_, _, _, _, rfl⟩

theorem enterBody_inv {s : State} (h : s.Inv) (hp : s.phase = .size) (hl : 20 ≤ s.fsize.toInt) (hu : s.fsize.toInt ≤ 2048) :
    (enterBody s).Inv where
  phase_le := phaseBits_le _
  errCode_le := errCodeBits_le _
  errCode_iff := by simp [h.errCode_none (hp ▸ by decide)]
  before_count := by simp
  frames_left := fun _ => h.frames_left (.inl hp)
  in_body := fun _ => ⟨hl, hu, by simp; omega⟩
  at_done := by simp
  log := (h.log_reading (.inl hp)).congr rfl rfl rfl

/-- `body_idx` does not wrap: its frame has at most 2048 bytes. -/
theorem bodyIdx_succ_toNat {i : BitVec 12} {n : Int} (hi : (i.toNat : Int) < n) (hn : n ≤ 2048) :
    (i + 1).toNat = i.toNat + 1 := by
  rw [BitVec.toNat_add]
  exact Nat.mod_eq_of_lt (by simp; omega)

theorem storeBodyByte_inv (b : Byte) {s : State} (h : s.Inv) (hp : s.phase = .body)
    (hi : (s.bodyIdx.toNat : Int) + 1 < s.fsize.toInt) : (storeBodyByte b s).Inv where
  phase_le := phaseBits_le _
  errCode_le := errCodeBits_le _
  errCode_iff := h.errCode_iff
  before_count := h.before_count
  frames_left := h.frames_left
  in_body := fun _ => by
    obtain ⟨hl, hu, hlt⟩ := h.in_body hp
    refine ⟨hl, hu, ?_⟩
    simp only [storeBodyByte_bodyIdx, storeBodyByte_fsize, bodyIdx_succ_toNat hlt hu]
    omega
  at_done := h.at_done
  log := h.log

/-- While frames are left the count is positive, so its signed value is its unsigned one. -/
theorem State.Inv.count_toInt {s : State} (h : s.Inv) (hp : s.phase = .size ∨ s.phase = .body) :
    s.count.toInt = s.count.toNat := by
  have hlt := h.frames_left hp
  by_cases hs : 2 * s.count.toNat < 2 ^ 32
  · exact BitVec.toInt_eq_toNat_of_lt hs
  · rw [BitVec.toInt_eq_toNat_cond, if_neg hs] at hlt
    have := s.count.isLt
    omega

/-- `frames_done` does not wrap: it stays below the count. -/
theorem State.Inv.framesDone_succ_toNat {s : State} (h : s.Inv) (hp : s.phase = .size ∨ s.phase = .body) :
    (s.framesDone + 1).toNat = s.framesDone.toNat + 1 := by
  have hlt := h.frames_left hp
  have hmax := BitVec.toInt_lt (x := s.count)
  rw [BitVec.toNat_add]
  exact Nat.mod_eq_of_lt (by simp; omega)

/-- A completed frame adds its event to the frames of the log (R163). -/
theorem completeFrame_logIs {s : State} (hl : s.LogIs []) (hk : (s.framesDone + 1).toNat = s.framesDone.toNat + 1) :
    (completeFrame s).LogIs [] := by
  obtain ⟨frames, he, hframes, hlen⟩ := hl
  refine ⟨_, ?_, FramesFrom_snoc (decodeHeader s.hdr) hframes, ?_⟩
  · simp [he, hlen, decodeHeader, protocolOf]
  · rw [completeFrame_framesDone, hk, List.length_append, hlen]; rfl

/-- The last byte of a frame leaves the log of a reader that goes on, with this frame reported. -/
theorem State.Inv.lastByte_logIs (b : Byte) {s : State} (h : s.Inv) (hp : s.phase = .body) :
    (completeFrame (storeBodyByte b s)).LogIs [] :=
  completeFrame_logIs ((h.log_reading (.inr hp)).congr rfl rfl rfl) (h.framesDone_succ_toNat (.inr hp))

theorem Effect.inv {act : HostAct} {u t : State} (h : u.Inv) (he : Effect act u t) : t.Inv := by
  cases he with
  | opened hp => exact openStream_inv h hp
  | notOpened hp => exact raiseErr_inv_early h (.inl hp) (.inl ⟨rfl, rfl⟩)
  | reset => exact resetBlock_inv u
  | countByte hp | sizeByte hp => exact storePrefixByte_inv _ h (by simp [hp])
  | countNone hp _ hc =>
    exact finish_inv (h.errCode_none (by simp [hp])) (completeCount_logIs _ (h.log_early (.inr hp))) (by simpa using hc)
  | countFrames hp _ hc =>
    exact enterSize_inv (h.errCode_none (by simp [hp])) (completeCount_logIs _ (h.log_early (.inr hp))) (by simpa using hc)
  | countEmpty hp =>
    have hk := (h.before_count (.inr hp)).2
    exact finish_inv (h.errCode_none (by simp [hp])) ⟨[], by simp [h.log_early (.inr hp)], trivial, by simp [hk]⟩ (by simp [hk])
  | countShort hp | countFailed hp => exact raiseErr_inv_early h (.inr hp) (.inr ⟨rfl, rfl⟩)
  | sizeOverflow hp =>
    exact raiseErr_inv_late (completeSize_inv _ h (by simp [hp])) (.inl hp) (.inr (.inl ⟨rfl, rfl⟩))
  | sizeUndersize hp =>
    exact raiseErr_inv_late (completeSize_inv _ h (by simp [hp])) (.inl hp) (.inr (.inr (.inl ⟨rfl, rfl⟩)))
  | sizeAccept hp _ hl hu => exact enterBody_inv (completeSize_inv _ h (by simp [hp])) hp hl hu
  | sizeCut hp => exact raiseErr_inv_late h (.inl hp) (.inl ⟨rfl, rfl⟩)
  | bodyByte hp hi => exact storeBodyByte_inv _ h hp hi
  | bodyNext hp _ hk =>
    have hne : (u.framesDone + 1).toNat ≠ u.count.toNat := fun hc => hk (BitVec.eq_of_toNat_eq hc)
    refine enterSize_inv (h.errCode_none (by simp [hp])) ((h.lastByte_logIs _ hp).congr rfl rfl rfl) ?_
    show ((u.framesDone + 1).toNat : Int) < u.count.toInt
    have hlt := h.frames_left (.inr hp)
    rw [h.framesDone_succ_toNat (.inr hp)] at hne ⊢
    rw [h.count_toInt (.inr hp)] at hlt ⊢
    omega
  | bodyLast hp _ hk =>
    refine finish_inv (h.errCode_none (by simp [hp])) (h.lastByte_logIs _ hp) ?_
    show ((u.framesDone + 1).toNat : Int) = max u.count.toInt 0
    rw [hk, h.count_toInt (.inr hp)]
    omega
  | bodyCut hp => exact raiseErr_inv_late h (.inr hp) (.inr (.inr (.inr ⟨rfl, rfl⟩)))
  | shown => exact h.of_sameBlock ⟨_, _, _, rfl⟩

/-- Settles O48: every step is an effect, and each effect keeps the invariant. -/
theorem everyStepKeepsTheInvariant : Obligations.EveryStepKeepsTheInvariant := by
  intro s t hs h
  obtain ⟨act, he, -⟩ := step_effect_takes h
  exact he.inv (hs.of_sameBlock (sameBlock_popped s))

/-- Settles O49: the reset state meets it, and the byte order and the host's acts are not in it. -/
theorem invariantHoldsAfterReset : Obligations.InvariantHoldsAfterReset := by
  intro order acts
  exact resetBlock_inv { State.reset with prefixOrder := order, inbox := acts }

end Sys2Proof.Machine
end

section
/-! PROOFS. What a step writes (10_state.md R24 to R33): one lemma over the effects for each register. -/

namespace Sys2Proof.Machine

open Sys2Proof.Claims

/-- The events that an effect adds: a `Frame` event first exactly where `frames_done` is counted up. -/
structure Effect.Adds (u t : State) (new : List Event) : Prop where
  events : t.events = u.events ++ new
  frame :
    ((t.framesDone = u.framesDone ∨ (u.phase = .count ∧ t.framesDone = 0)) ∧
      ∀ k d p rest, new ≠ .frame k d p :: rest) ∨
    (u.phase = .body ∧ t.framesDone = u.framesDone + 1 ∧
      ∃ d rest, new = .frame u.framesDone d (protoClass d.protocol) :: rest)

theorem Effect.exists_adds {act : HostAct} {u t : State} (he : Effect act u t) (hr : act ≠ .reset) :
    ∃ new, Effect.Adds u t new := by
  cases he with
  | reset => exact absurd rfl hr
  | opened | countByte | sizeByte | sizeAccept | bodyByte | shown =>
    exact ⟨[], by simp, .inl ⟨.inl rfl, by simp⟩⟩
  | notOpened | countShort | countFailed | sizeOverflow | sizeUndersize | sizeCut | bodyCut =>
    exact ⟨[.error _ _], rfl, .inl ⟨.inl rfl, by simp⟩⟩
  | countNone hp => exact ⟨[.count _, .done], List.append_assoc .., .inl ⟨.inr ⟨hp, rfl⟩, by simp⟩⟩
  | countFrames hp => exact ⟨[.count _], rfl, .inl ⟨.inr ⟨hp, rfl⟩, by simp⟩⟩
  | countEmpty => exact ⟨[.count 0, .done], List.append_assoc .., .inl ⟨.inl rfl, by simp⟩⟩
  | bodyNext hp => exact ⟨[.frame _ _ _], rfl, .inr ⟨hp, rfl, _, _, rfl⟩⟩
  | bodyLast hp => exact ⟨[.frame _ _ _, .done], List.append_assoc .., .inr ⟨hp, rfl, _, _, rfl⟩⟩

/-- Settles O38: what an effect adds stands after the log. -/
theorem eventsAreOnlyAppended : Obligations.EventsAreOnlyAppended := by
  intro s t h hr
  obtain ⟨act, hact, he⟩ := step_effect_not_reset h hr
  obtain ⟨new, hnew⟩ := he.exists_adds hact
  exact ⟨new, hnew.events⟩

/-- Settles O46: a frame is counted in the step that reports it, and the invariant rules out the one other write, of 0 over
what Reset left. -/
theorem framesDoneCountsReportedFrames : Obligations.FramesDoneCountsReportedFrames := by
  intro s t hs h hr
  obtain ⟨act, hact, he⟩ := step_effect_not_reset h hr
  obtain ⟨new, hev, hframe⟩ := he.exists_adds hact
  rcases hframe with ⟨hfd, hno⟩ | ⟨hp, hfd, d, rest, rfl⟩
  · refine .inl ⟨?_, ?_⟩
    · rcases hfd with hfd | ⟨hp, hfd⟩
      · exact hfd
      · rw [hfd, (hs.before_count (.inr hp)).2]
    · intro k d p rest hc
      exact hno k d p rest (List.append_cancel_left (hev.symm.trans hc))
  · refine .inr ⟨hfd, ?_, hp, d, rest, hev⟩
    rw [hfd]
    exact hs.framesDone_succ_toNat (.inr hp)

/-- The error registers are written on entry to ERROR, which no effect but Reset leaves. -/
theorem Effect.errorRegisters {act : HostAct} {u t : State} (he : Effect act u t) (hr : act ≠ .reset) :
    (t.errCode = u.errCode ∧ t.errField = u.errField) ∨ (u.phase ≠ .error ∧ t.phase = .error) := by
  cases he with
  | reset => exact absurd rfl hr
  | notOpened hp | countShort hp | countFailed hp | sizeOverflow hp | sizeUndersize hp | sizeCut hp | bodyCut hp =>
    exact .inr ⟨by simp [hp], rfl⟩
  | _ => exact .inl ⟨rfl, rfl⟩

/-- Settles O42, by the cases of what a step can do. -/
theorem errorRegistersAreSticky : Obligations.ErrorRegistersAreSticky := by
  intro s t h hr
  obtain ⟨act, hact, he⟩ := step_effect_not_reset h hr
  exact he.errorRegisters hact

theorem storeBodyByte_hdr_cases (b : Byte) (s : State) :
    (storeBodyByte b s).hdr = s.hdr ∨
      (s.bodyIdx.toNat < 20 ∧ (storeBodyByte b s).hdr = s.hdr.setIfInBounds s.bodyIdx.toNat b) := by
  by_cases hi : s.bodyIdx.toNat < 20
  · exact .inr ⟨hi, if_pos hi⟩
  · exact .inl (if_neg hi)

theorem Effect.hdr {act : HostAct} {u t : State} (he : Effect act u t) :
    t.hdr = u.hdr ∨ act = .reset ∨
      (u.phase = .body ∧ u.bodyIdx.toNat < 20 ∧
        ∃ b, act = .answer (.byte b) ∧ t.hdr = u.hdr.setIfInBounds u.bodyIdx.toNat b) := by
  cases he with
  | reset => exact .inr (.inl rfl)
  | bodyByte hp | bodyNext hp | bodyLast hp =>
    rcases storeBodyByte_hdr_cases _ u with hkept | ⟨hi, hset⟩
    · exact .inl hkept
    · exact .inr (.inr ⟨hp, hi, _, rfl, hset⟩)
  | _ => exact .inl rfl

/-- Settles O44: of the effects only a body byte and Reset write `hdr`. -/
theorem headerRegistersAreWrittenOnlyByBodyBytes : Obligations.HeaderRegistersAreWrittenOnlyByBodyBytes := by
  intro s t h hne
  obtain ⟨act, he, htakes⟩ := step_effect_takes h
  simp only [htakes]
  rcases he.hdr with hkept | hreset | ⟨hp, hi, b, hact, hset⟩
  · exact absurd hkept hne
  · exact .inl hreset.symm
  · exact .inr ⟨hp, hi, b, hact.symm, hset⟩

theorem Effect.count {act : HostAct} {u t : State} (he : Effect act u t) :
    t.count = u.count ∨ act = .reset ∨ (u.phase = .count ∧ (t.phase = .size ∨ t.phase = .done)) := by
  cases he with
  | reset => exact .inr (.inl rfl)
  | countNone hp | countEmpty hp => exact .inr (.inr ⟨hp, .inr rfl⟩)
  | countFrames hp => exact .inr (.inr ⟨hp, .inl rfl⟩)
  | _ => exact .inl rfl

/-- Settles O45: of the effects only a completed count, an empty stream and Reset write `count`. -/
theorem countIsWrittenOnlyWhenItIsRead : Obligations.CountIsWrittenOnlyWhenItIsRead := by
  intro s t h hne
  obtain ⟨act, he, htakes⟩ := step_effect_takes h
  simp only [htakes]
  rcases he.count with hkept | hreset | hread
  · exact absurd hkept hne
  · exact .inl hreset.symm
  · exact .inr hread

/-- An act that is no command and no answer shows a result and does nothing else. -/
theorem Effect.sameBlock {act : HostAct} {u t : State} (he : Effect act u t) (hr : act ≠ .reset) (hs : ∀ o, act ≠ .start o)
    (ha : ∀ sym, act ≠ .answer sym) : SameBlock u t := by
  cases he with
  | shown => exact ⟨_, _, _, rfl⟩
  | reset => exact absurd rfl hr
  | opened | notOpened => exact absurd rfl (hs _)
  | _ => exact absurd rfl (ha _)

theorem sameBlock_trans {s t u : State} (h₁ : SameBlock s t) (h₂ : SameBlock t u) : SameBlock s u := by
  obtain ⟨_, _, _, rfl⟩ := h₁
  obtain ⟨_, _, _, rfl⟩ := h₂
  exact ⟨_, _, _, rfl⟩

/-- Settles O52: these acts only show a result. -/
theorem ownOperationsAndReadsHaveNoSideEffect : Obligations.OwnOperationsAndReadsHaveNoSideEffect := by
  intro s t h hown
  obtain ⟨act, he, htakes⟩ := step_effect_takes h
  simp only [htakes] at hown
  refine sameBlock_trans (sameBlock_popped s) ?_
  rcases hown with ⟨_, rfl⟩ | ⟨_, _, rfl⟩ | rfl | ⟨_, rfl⟩ <;> exact he.sameBlock (by simp) (by simp) (by simp)

end Sys2Proof.Machine
end

section
/-! PROOFS. What the invariant says of the event log (10_state.md R43). -/

namespace Sys2Proof.Machine

open Sys2Proof.Claims

/-- The events that R33 calls `Frame`. -/
def Event.isFrame : Event → Bool
  | .frame _ _ _ => true
  | _ => false

/-- The events that end a run. -/
def Event.IsLast (e : Event) : Prop := e = .done ∨ ∃ code field, e = .error code field

theorem FramesFrom.mem {k : Nat} {frames : List Event} (h : FramesFrom k frames) {e : Event} (he : e ∈ frames) :
    e.isFrame = true := by
  induction frames generalizing k with
  | nil => cases he
  | cons f rest ih =>
    obtain ⟨⟨d, rfl⟩, hrest⟩ := h
    rcases List.mem_cons.mp he with rfl | he
    · rfl
    · exact ih hrest he

theorem Event.IsLast.not_frame {e : Event} (h : e.IsLast) : e.isFrame = false := by
  rcases h with rfl | ⟨_, _, rfl⟩ <;> rfl

/-- The log of every phase: what stands before the frames, the frames done, and at most one event after them. -/
structure LogParts (s : State) (init frames tail : List Event) : Prop where
  events : s.events = init ++ frames ++ tail
  init_plain : ∀ e ∈ init, e.isFrame = false ∧ ¬ e.IsLast
  frames_all : ∀ e ∈ frames, e.isFrame = true
  frames_length : frames.length = s.framesDone.toNat
  tail_plain : ∀ e ∈ tail, e.isFrame = false
  tail_le : tail.length ≤ 1

theorem State.LogIs.parts {s : State} {tail : List Event} (h : s.LogIs tail) (ht : ∀ e ∈ tail, e.isFrame = false)
    (hl : tail.length ≤ 1) : ∃ init frames, LogParts s init frames tail := by
  obtain ⟨frames, he, hframes, hlen⟩ := h
  exact ⟨[.count s.count], frames, by simp [he], by simp [Event.isFrame, Event.IsLast], fun _ => hframes.mem, hlen, ht, hl⟩

theorem State.Inv.logParts {s : State} (h : s.Inv) : ∃ init frames tail, LogParts s init frames tail := by
  have hlog := h.log
  cases hp : s.phase with
  | idle | count =>
    have hearly : s.phase = .idle ∨ s.phase = .count := by simp [hp]
    exact ⟨[], [], [], h.log_early hearly, by simp, by simp, by simp [(h.before_count hearly).2], by simp, by simp⟩
  | size | body =>
    obtain ⟨init, frames, hparts⟩ := (h.log_reading (by simp [hp])).parts (by simp) (by simp)
    exact ⟨init, frames, [], hparts⟩
  | done =>
    simp only [State.LogShape, hp] at hlog
    obtain ⟨init, frames, hparts⟩ := hlog.parts (by simp [Event.isFrame]) (by simp)
    exact ⟨init, frames, _, hparts⟩
  | error =>
    simp only [State.LogShape, hp] at hlog
    rcases hlog with ⟨-, he, hfd⟩ | ⟨-, hlog⟩
    · exact ⟨[], [], _, he, by simp, by simp, by simp [hfd], by simp [Event.isFrame], by simp⟩
    · obtain ⟨init, frames, hparts⟩ := hlog.parts (by simp [Event.isFrame]) (by simp)
      exact ⟨init, frames, _, hparts⟩

theorem LogParts.filter_frames {s : State} {init frames tail : List Event} (h : LogParts s init frames tail) :
    s.events.filter Event.isFrame = frames := by
  have hinit : init.filter Event.isFrame = [] := by simpa using fun e he => (h.init_plain e he).1
  have htail : tail.filter Event.isFrame = [] := by simpa using h.tail_plain
  rw [h.events, List.filter_append, List.filter_append, hinit, htail, List.filter_eq_self.mpr h.frames_all]
  simp

/-- An element that is not before the last place of a list stands in it. -/
theorem post_nil_of_notMem {α : Type} {l tail pre post : List α} {e : α} (h : l ++ tail = pre ++ e :: post)
    (hl : tail.length ≤ 1) (he : e ∉ l) : post = [] := by
  rcases List.append_eq_append_iff.mp h with ⟨as, -, rfl⟩ | ⟨bs, rfl, hbs⟩
  · exact List.length_eq_zero_iff.mp (by simp at hl; omega)
  · cases bs with
    | nil => subst hbs; simpa using hl
    | cons b bs => cases hbs; exact absurd (by simp) he

/-- Settles O50: the frames are the middle part of the log, and at most one event follows them. -/
theorem invariantBoundsTheEventLog : Obligations.InvariantBoundsTheEventLog := by
  intro s hs
  obtain ⟨init, frames, tail, h⟩ := hs.logParts
  refine ⟨?_, fun pre e post hsplit he => ?_⟩
  · change (s.events.filter Event.isFrame).length = _
    rw [h.filter_frames, h.frames_length]
  · have hlast : e.IsLast := he
    refine post_nil_of_notMem (h.events.symm.trans hsplit) h.tail_le fun hmem => ?_
    rcases List.mem_append.mp hmem with hmem | hmem
    · exact (h.init_plain e hmem).2 hlast
    · exact absurd (h.frames_all e hmem) (by simp [hlast.not_frame])

end Sys2Proof.Machine
end

section
/-! PROOFS. The ports and the status registers (10_state.md R32 to R42, 70_reset_and_hazards.md R217). -/

namespace Sys2Proof.Machine

open Sys2Proof.Claims

/-! ### The ports -/

theorem decOpen_iff (s : State) : s.decOpen = true ↔ DecWindow s := by
  simp [State.decOpen, DecWindow, imp_iff_not_or]

/-- A header operation through the open port shows its output of `hdr` (R34, R217). -/
theorem headerOp_port_open {s : State} (h : DecWindow s) (output : DecodedHeader → OutVal) :
    headerOp output .port s = .next { s with out := output (decodeHeader s.hdr) } := by
  simp [headerOp, readHeader, (decOpen_iff s).mpr h, answerWith]

/-- Settles O14: each row is `headerOp` with its own output. -/
theorem headerRowsCompleteThroughTheOpenPort : Obligations.HeaderRowsCompleteThroughTheOpenPort := by
  intro s hw
  have hop := headerOp_port_open hw
  exact ⟨hop _, hop _, hop _, hop _, hop _, hop _, hop _, hop _, hop _, hop _, hop _, hop _, hop _⟩

/-- Taking the host's next act leaves the rest of the inbox. -/
theorem State.popped_eq {s : State} {act : HostAct} {rest : List HostAct} (hin : s.inbox = act :: rest) :
    s.popped = { s with inbox := rest } := by
  simp [State.popped, hin]

theorem step_readClass {s : State} {rest : List HostAct} (hin : s.inbox = .readClass :: rest) :
    step s = readClassPort { s with inbox := rest } := by
  rw [← State.popped_eq hin]
  simp [step, hin, decodeAct]

/-- Settles O19: the port tests the window, and outside it shows its next free value. -/
theorem classPortFollowsTheWindow : Obligations.ClassPortFollowsTheWindow := by
  intro s rest hin
  rw [step_readClass hin]
  refine ⟨fun hw => if_pos ((decOpen_iff _).mpr hw), fun hw => ⟨Config.openProtoClass s.draws, ?_⟩⟩
  exact if_neg (fun ho => hw ((decOpen_iff _).mp ho))

/-! ### Status registers and flags -/

theorem State.busy_iff (s : State) : s.busy = true ↔ s.phase = .count ∨ s.phase = .size ∨ s.phase = .body := by
  simp [State.busy, or_assoc]

/-- The stream is held exactly while the reader is busy (R42). -/
theorem State.streamHeld_eq_busy (s : State) : s.streamHeld = s.busy := rfl

/-- Settles O56: each flag is a test of the phase. -/
theorem flagsFollowThePhase : Obligations.FlagsFollowThePhase := by
  refine ⟨fun s => ⟨s.busy_iff, beq_iff_eq, beq_iff_eq, ?_⟩, rfl, rfl, rfl, rfl⟩
  rw [State.streamHeld_eq_busy, State.busy_iff]

/-- A phase that is not busy selects no row (R35). -/
theorem selectRow_of_not_busy {s : State} (h : s.busy = false) (sym : Symbol) : selectRow s.situation sym = none := by
  have hb : ¬ s.busy = true := by simp [h]
  rw [State.busy_iff] at hb
  cases hp : s.phase with
  | idle | done | error => simp [selectRow, hp]
  | count | size | body => simp [hp] at hb

/-- Settles O37: such a phase selects no row. -/
theorem answersWithoutARequestAreRefused : Obligations.AnswersWithoutARequestAreRefused := by
  intro s sym hb ⟨rest, hin⟩
  simp [step, hin, decodeAct, selectRow_of_not_busy hb, rejection]

/-- STATUS above its phase field. -/
theorem statusWord_extractLsb' (s : State) (start len : Nat) (h : 3 ≤ start) :
    (statusWord s).extractLsb' start len =
      ((0 : BitVec 18) ++ BitVec.ofBool s.streamHeld ++ BitVec.ofBool s.error ++ BitVec.ofBool s.done ++
        BitVec.ofBool s.busy ++ s.preIdx ++ errFieldBits s.errField ++ errCodeBits s.errCode).extractLsb' (start - 3) len :=
  BitVec.extractLsb'_append_eq_of_le h

theorem statusWord_getLsbD (s : State) (i : Nat) (h : 3 ≤ i) :
    (statusWord s).getLsbD i =
      ((0 : BitVec 18) ++ BitVec.ofBool s.streamHeld ++ BitVec.ofBool s.error ++ BitVec.ofBool s.done ++
        BitVec.ofBool s.busy ++ s.preIdx ++ errFieldBits s.errField ++ errCodeBits s.errCode).getLsbD (i - 3) :=
  BitVec.getLsbD_append.trans (if_neg (by omega))

/-- Settles O54: the fields of the concatenation, from the phase upwards. -/
theorem statusFieldsStandWhereTheMapSays : Obligations.StatusFieldsStandWhereTheMapSays := by
  refine ⟨fun s => ⟨BitVec.extractLsb'_append_eq_right, ?_, ?_, ?_, ?_, ?_, ?_, ?_, ?_⟩, by decide⟩
  case refine_1 | refine_2 | refine_3 | refine_8 =>
    simp only [statusWord_extractLsb', BitVec.extractLsb'_append_eq_of_le, BitVec.extractLsb'_append_eq_right,
      BitVec.extractLsb'_eq_self, Nat.reduceLeDiff, Nat.reduceSub, Nat.le_refl]
  all_goals
    simp only [statusWord_getLsbD, BitVec.getLsbD_append, Nat.reduceLeDiff, Nat.reduceSub, Nat.reduceLT, if_false,
      if_true, BitVec.getLsbD_ofBool, decide_true, Bool.true_and]

theorem step_readReg {s : State} {rest : List HostAct} {n : Nat} (hin : s.inbox = .readReg n :: rest) :
    step s = readRegister n { s with inbox := rest } := by
  rw [← State.popped_eq hin]
  simp [step, hin, decodeAct]

/-- The content of the registers is no part of the inbox. -/
theorem statusRegister_inbox (s : State) (rest : List HostAct) (n : Nat) :
    statusRegister { s with inbox := rest } n = statusRegister s n := rfl

/-- A read of a register shows its content and does nothing else (R40). -/
theorem step_readReg_shows {s : State} {rest : List HostAct} {n : Nat} {v : Word} (hin : s.inbox = .readReg n :: rest)
    (hv : statusRegister s n = some v) : step s = .next { s with inbox := rest, out := .register v } := by
  simp only [step_readReg hin, readRegister, statusRegister_inbox, hv, answerWith]

theorem step_readReg_refused {s : State} {rest : List HostAct} {n : Nat} (hin : s.inbox = .readReg n :: rest)
    (hv : statusRegister s n = none) : step s = .refused .registerNumber := by
  simp only [step_readReg hin, readRegister, statusRegister_inbox, hv]

/-- The numbers above 7 have no register (R38, R41). -/
theorem statusRegister_of_ge (s : State) {n : Nat} (h : 8 ≤ n) : statusRegister s n = if n ≤ 15 then some 0 else none := by
  obtain ⟨k, rfl⟩ := Nat.exists_eq_add_of_le' h
  rfl

theorem pos_low (p : BitVec 64) : p.extractLsb' 0 32 = BitVec.ofNat 32 p.toNat := rfl

theorem pos_high (p : BitVec 64) : p.extractLsb' 32 32 = BitVec.ofNat 32 (p.toNat / 4294967296) := by
  rw [BitVec.extractLsb', Nat.shiftRight_eq_div_pow]

/-- The bytes of `pre_buf` by their weights, the first in bits 7 to 0 (R38). -/
theorem preBuf_word (v : Vector Byte 4) : v[3] ++ v[2] ++ v[1] ++ v[0] =
    BitVec.ofNat 32 (v[0].toNat + 256 * v[1].toNat + 65536 * v[2].toNat + 16777216 * v[3].toNat) := by
  apply BitVec.eq_of_toNat_eq
  simp only [append_byte_toNat, BitVec.toNat_ofNat]
  omega

/-- Settles O55: a read shows what the register holds, number by number. -/
theorem registerMapReadsAndRefuses : Obligations.RegisterMapReadsAndRefuses := by
  intro s rest
  refine ⟨fun n hin => ?_, fun n v hin => by simp [step, hin, decodeAct, writeRegister]⟩
  refine ⟨?_, ?_, ?_, ?_, ?_, ?_, ?_, ?_, fun hl hu => ?_, fun hu => ?_⟩
  case refine_9 => exact step_readReg_shows hin ((statusRegister_of_ge s hl).trans (if_pos hu))
  case refine_10 => exact step_readReg_refused hin ((statusRegister_of_ge s (by omega)).trans (if_neg (by omega)))
  all_goals
    rintro rfl
    exact step_readReg_shows hin (by simp only [statusRegister, BitVec.ofNat_toNat, pos_low, pos_high, preBuf_word])

end Sys2Proof.Machine
end

section
/-! PROOFS. The run over a whole frame (41_reader.md R161): its last state, and that no earlier byte of `hdr` is in it
(10_state.md R27). -/

namespace Sys2Proof.Machine

open Sys2Proof.Claims

/-- `run_next` for the block. -/
theorem run_step {s t : State} (k : Nat) (h : step s = .next t) : core.run (k + 1) s = core.run k t := run_next core k h

/-- Four stream bytes as `pre_buf` holds them. -/
def heldBytes (bytes : List Byte) : Vector Byte 4 := Vector.ofFn (fun k => bytes.getD k.val 0)

/-- The state once the first three bytes of a count or a size have been read (R143, R148). -/
def holdPrefix (p0 p1 p2 : Byte) (rest : List HostAct) (s : State) : State :=
  { s with preBuf := #v[p0, p1, p2, s.preBuf[3]], preIdx := 3, pos := s.pos + 3, inbox := rest }

theorem setIfInBounds_three (v : Vector Byte 4) (p0 p1 p2 : Byte) :
    ((v.setIfInBounds 0 p0).setIfInBounds 1 p1).setIfInBounds 2 p2 = #v[p0, p1, p2, v[3]] := by
  apply Vector.ext
  intro i hi
  have : i = 0 ∨ i = 1 ∨ i = 2 ∨ i = 3 := by omega
  rcases this with rfl | rfl | rfl | rfl <;> simp

theorem storePrefixByte_three {s : State} {p0 p1 p2 : Byte} {rest : List HostAct} (hi : s.preIdx = 0)
    (hin : s.inbox = answers [p0, p1, p2] ++ rest) :
    storePrefixByte p2 (storePrefixByte p1 (storePrefixByte p0 s.popped).popped).popped = holdPrefix p0 p1 p2 rest s := by
  simp [storePrefixByte, consumeByte, State.popped, holdPrefix, hi, hin, answers, setIfInBounds_three, add_assoc]

theorem run_prefix {s : State} {p0 p1 p2 : Byte} {rest : List HostAct} (hp : s.phase = .count ∨ s.phase = .size)
    (hi : s.preIdx = 0) (hin : s.inbox = answers [p0, p1, p2] ++ rest) :
    core.run 3 s = .next (holdPrefix p0 p1 p2 rest s) := by
  have h0 := step_prefixByte hin hp (by simp [hi])
  have h1 := step_prefixByte (s := storePrefixByte p0 s.popped) (b := p1) (rest := answers [p2] ++ rest)
    (by simp [hin, answers]) hp (by simp [hi])
  have h2 := step_prefixByte (s := storePrefixByte p1 (storePrefixByte p0 s.popped).popped) (b := p2) (rest := rest)
    (by simp [hin, answers]) hp (by simp [hi])
  rw [← storePrefixByte_three hi hin, run_step 2 h0, run_step 1 h1, run_step 0 h2]
  rfl

/-- The step on the byte that completes an accepted size (R152). -/
theorem step_acceptedSize {s : State} {b : Byte} {rest : List HostAct} (hin : s.inbox = .answer (.byte b) :: rest)
    (hp : s.phase = .size) (hi : s.preIdx = 3) (hl : 20 ≤ (s.completed b).toInt) (hu : (s.completed b).toInt ≤ 2048) :
    step s = .next (enterBody (completeSize b s.popped)) := by
  have ho : sizeOverflows (s.completed b) = false := by rw [Bool.eq_false_iff, Ne, sizeOverflows_iff]; omega
  have hs : sizeUndersize (s.completed b) = false := by rw [Bool.eq_false_iff, Ne, sizeUndersize_iff]; omega
  have hc : completedWord s.prefixOrder s.preBuf b = s.completed b := rfl
  have hsel : selectSize s.situation (.byte b) = .clsSizeAccept b := by simp [selectSize, hi, hc, ho, hs]
  simp [step, hin, decodeAct, selectRow, hp, hsel, exec, execClsSizeAccept, hi, ho, hs]

/-- The state in which the body of a frame of size `n` begins (R152). -/
def beginBody (n : Word) (rest : List HostAct) (s : State) : State :=
  { s with
    phase := .body, preIdx := 0, preBuf := heldBytes (wordBytes s.prefixOrder n), fsize := n, bodyIdx := 0,
    pos := s.pos + 4, inbox := rest }

theorem enterBody_completeSize_holdPrefix {s : State} {n : Word} {p0 p1 p2 p3 : Byte} {rest : List HostAct}
    (hw : wordBytes s.prefixOrder n = [p0, p1, p2, p3]) (hn : assemble32 s.prefixOrder p0 p1 p2 p3 = n) :
    enterBody (completeSize p3 (holdPrefix p0 p1 p2 (answers [p3] ++ rest) s).popped) = beginBody n rest s := by
  have hbuf : (#v[p0, p1, p2, s.preBuf[3]] : Vector Byte 4).set 3 p3 = heldBytes [p0, p1, p2, p3] := rfl
  have hval : (holdPrefix p0 p1 p2 (answers [p3] ++ rest) s).completed p3 = n := hn
  have hpos : s.pos + 3 + 1 = s.pos + 4 := by rw [add_assoc]; rfl
  rw [beginBody, hw, ← hbuf, ← hval, ← hpos]
  rfl

theorem run_acceptedSize {s : State} {n : Word} {rest : List HostAct} (hp : s.phase = .size) (hi : s.preIdx = 0)
    (hin : s.inbox = answers (wordBytes s.prefixOrder n) ++ rest) (hl : 20 ≤ n.toInt) (hu : n.toInt ≤ 2048) :
    core.run 4 s = .next (beginBody n rest s) := by
  obtain ⟨p0, p1, p2, p3, hw, hn⟩ := assemble32_wordBytes s.prefixOrder n
  rw [hw] at hin
  have hc : (holdPrefix p0 p1 p2 (answers [p3] ++ rest) s).completed p3 = n := hn
  have h3 := run_prefix (.inr hp) hi (rest := answers [p3] ++ rest) hin
  have h4 := step_acceptedSize (s := holdPrefix p0 p1 p2 (answers [p3] ++ rest) s) (b := p3) (rest := rest) rfl hp rfl
    (hc.symm ▸ hl) (hc.symm ▸ hu)
  rw [← enterBody_completeSize_holdPrefix hw hn]
  exact (run_add core 3 1 h3).trans (run_step 0 h4)

/-- The state once `bytes` of a body have been stored or dropped (R153, R155). -/
def readBody (bytes : List Byte) (rest : List HostAct) (s : State) : State :=
  { s with
    pos := s.pos + BitVec.ofNat 64 bytes.length, bodyIdx := s.bodyIdx + BitVec.ofNat 12 bytes.length,
    hdr := storedHeader s.hdr s.bodyIdx.toNat bytes, inbox := rest }

theorem add_one_add_ofNat {w : Nat} (x : BitVec w) (n : Nat) : x + 1 + BitVec.ofNat w n = x + BitVec.ofNat w (n + 1) := by
  rw [BitVec.ofNat_add, add_assoc, add_comm (1 : BitVec w)]
  rfl

theorem readBody_nil {s : State} {rest : List HostAct} (hin : s.inbox = rest) : readBody [] rest s = s := by
  simp [readBody, storedHeader, ← hin]

theorem readBody_cons (b : Byte) (bytes : List Byte) (rest : List HostAct) {s : State}
    (hi : (s.bodyIdx + 1).toNat = s.bodyIdx.toNat + 1) :
    readBody bytes rest (storeBodyByte b s.popped) = readBody (b :: bytes) rest s := by
  simp only [readBody, List.length_cons, ← add_one_add_ofNat, storedHeader, ← hi]
  rfl

/-- A body read to its last byte: one step a byte, and the frame is reported (R153, R156). -/
theorem run_body {s : State} {bytes : List Byte} {rest : List HostAct} (hp : s.phase = .body) (hne : bytes ≠ [])
    (hin : s.inbox = answers bytes ++ rest) (hi : (s.bodyIdx.toNat : Int) + bytes.length = s.fsize.toInt)
    (hu : s.fsize.toInt ≤ 2048) : core.run bytes.length s = .next (afterFrame (completeFrame (readBody bytes rest s))) := by
  induction bytes generalizing s with
  | nil => exact absurd rfl hne
  | cons b bytes ih =>
    rw [List.length_cons, Nat.cast_add, Nat.cast_one] at hi
    have hlt : (s.bodyIdx.toNat : Int) < s.fsize.toInt := by omega
    have hsucc := bodyIdx_succ_toNat hlt hu
    have hstep := step_bodyByte hin hp hlt
    rw [← readBody_cons b bytes rest hsucc, List.length_cons, run_step _ hstep, takeBodyByte]
    have htail : (storeBodyByte b s.popped).inbox = answers bytes ++ rest := by simp [hin, answers]
    by_cases hb : bytes = []
    · subst hb
      rw [if_pos (by simpa using hi), readBody_nil (rest := rest) htail]
      rfl
    · have hpos := List.length_pos_iff.mpr hb
      rw [if_neg (by simp; omega)]
      refine ih hp hb htail ?_ hu
      simp only [storeBodyByte_bodyIdx, storeBodyByte_fsize, State.popped_bodyIdx, State.popped_fsize, hsucc]
      omega

/-- The state once a whole frame has been read and before it is reported. -/
def readFrame (body : List Byte) (rest : List HostAct) (s : State) : State :=
  { s with
    phase := .body, preIdx := 0, fsize := BitVec.ofNat 32 body.length, bodyIdx := BitVec.ofNat 12 body.length
    preBuf := heldBytes (wordBytes s.prefixOrder (BitVec.ofNat 32 body.length))
    hdr := bodyHeader body, pos := s.pos + BitVec.ofNat 64 (4 + body.length), inbox := rest }

/-- A whole frame is read in `4 + fsize` steps, and all of `hdr` is its own (R161, R27). -/
theorem run_frame {s : State} {body : List Byte} {rest : List HostAct} (hp : s.phase = .size) (hi : s.preIdx = 0)
    (hl : 20 ≤ body.length) (hu : body.length ≤ 2048) (hin : s.inbox = answers (frameBytes s.prefixOrder body) ++ rest) :
    core.run (4 + body.length) s = .next (afterFrame (completeFrame (readFrame body rest s))) := by
  have hn : (BitVec.ofNat 32 body.length).toInt = body.length := by
    rw [BitVec.toInt_eq_toNat_of_lt] <;> rw [BitVec.toNat_ofNat, Nat.mod_eq_of_lt] <;> omega
  have hin4 : s.inbox = answers (wordBytes s.prefixOrder (BitVec.ofNat 32 body.length)) ++ (answers body ++ rest) := by
    simp [hin, frameBytes, answers]
  have hsize := run_acceptedSize hp hi hin4 (by omega) (by omega)
  have hbody := run_body (s := beginBody (BitVec.ofNat 32 body.length) (answers body ++ rest) s) (bytes := body)
    (rest := rest) rfl (by rintro rfl; simp at hl) rfl (by simp [beginBody, hn]) (by simp only [beginBody, hn]; omega)
  have hread : readBody body rest (beginBody (BitVec.ofNat 32 body.length) (answers body ++ rest) s) =
      readFrame body rest s := by
    simp [readBody, beginBody, readFrame, storedHeader_whole _ _ hl, BitVec.ofNat_add, add_assoc]
  rw [run_add core 4 _ hsize, hbody, hread]

/-- Settles O59: the state after a frame is a function of the frame and of the registers beside `hdr`. -/
theorem earlierHeaderBytesLeakIntoNoFrame : Obligations.EarlierHeaderBytesLeakIntoNoFrame := by
  intro s h body rest hp hi hl hu hin
  exact ⟨_, run_frame hp hi hl hu hin, run_frame (s := { s with hdr := h }) hp hi hl hu hin⟩

end Sys2Proof.Machine
end

section
/-! PROOFS. The stream as memory: the value of four stream bytes (20_memory.md R64), the count of bytes consumed (R61,
10_state.md R29) and the byte order (R66). -/

namespace Sys2Proof.Machine

open Sys2Proof.Claims

/-- Each byte order has its own weights, and the sign bit is worth -2^32 (R64). -/
theorem assemble32_toInt (order : PrefixOrder) (p0 p1 p2 p3 : Byte) :
    (assemble32 order p0 p1 p2 p3).toInt = prefixValue order p0 p1 p2 p3 := by
  rw [BitVec.toInt_eq_toNat_cond]
  cases order with
  | le | be =>
    simp only [assemble32, append_byte_toNat, prefixValue]
    split_ifs <;> omega

/-- Settles O8: the value by weights, and the reset state's own byte order. -/
theorem fourBytesAssembleInPrefixOrder : Obligations.FourBytesAssembleInPrefixOrder :=
  ⟨rfl, assemble32_toInt⟩

/-- What an act makes of `pos` (20_memory.md R61, 10_state.md R29). -/
def posAfter (act : HostAct) (pos : BitVec 64) : BitVec 64 :=
  match act with
  | .answer (.byte _) => pos + 1
  | .start true => 0
  | .reset => 0
  | _ => pos

theorem posAfter_answer_of_not_byte {sym : Symbol} (hs : ∀ b, sym ≠ .byte b) (pos : BitVec 64) :
    posAfter (.answer sym) pos = pos := by
  cases sym with
  | byte b => exact absurd rfl (hs b)
  | eos | fail => rfl

/-- An act that is no command and no answer does not move `pos`. -/
theorem posAfter_of_not_reader {act : HostAct} (hr : act ≠ .reset) (hs : ∀ o, act ≠ .start o)
    (ha : ∀ sym, act ≠ .answer sym) (pos : BitVec 64) : posAfter act pos = pos := by
  cases act with
  | start o => exact absurd rfl (hs o)
  | reset => exact absurd rfl hr
  | answer sym => exact absurd rfl (ha sym)
  | _ => rfl

/-- Only these acts move `pos`. -/
theorem mover_of_posAfter_ne {act : HostAct} {pos : BitVec 64} (h : posAfter act pos ≠ pos) :
    act = .reset ∨ act = .start true ∨ ∃ b, act = .answer (.byte b) := by
  unfold posAfter at h
  split at h
  · exact .inr (.inr ⟨_, rfl⟩)
  · exact .inr (.inl rfl)
  · exact .inl rfl
  · exact absurd rfl h

/-- Every effect of an act leaves `pos` as the act alone says. -/
theorem Effect.pos {act : HostAct} {u t : State} (he : Effect act u t) : t.pos = posAfter act u.pos := by
  cases he with
  | sizeCut _ hs | bodyCut _ hs => exact (posAfter_answer_of_not_byte hs _).symm
  | shown hr hs ha => exact (posAfter_of_not_reader hr hs ha _).symm
  | _ => rfl

/-- An answer without a byte ends the run. -/
theorem Effect.phase_of_not_byte {sym : Symbol} {u t : State} (he : Effect (.answer sym) u t) (hs : ∀ b, sym ≠ .byte b) :
    t.phase = .done ∨ t.phase = .error := by
  cases he with
  | countEmpty => exact .inl rfl
  | countShort | countFailed | sizeCut | bodyCut => exact .inr rfl
  | shown _ _ ha => exact absurd rfl (ha sym)
  | _ => exact absurd rfl (hs _)

/-- Settles O39: `pos` follows the host's act, and an answer without a byte ends the run. -/
theorem posCountsConsumedBytes : Obligations.PosCountsConsumedBytes := by
  intro s t h
  obtain ⟨act, he, htakes⟩ := step_effect_takes h
  have hpos : t.pos = posAfter act s.pos := he.pos
  simp only [htakes, hpos]
  refine ⟨?_, ?_, ?_, fun hne => ?_⟩
  · rintro b rfl
    rfl
  · rintro (rfl | rfl) <;> exact ⟨rfl, he.phase_of_not_byte (by simp)⟩
  · rintro (rfl | rfl) <;> rfl
  · simpa only [eq_comm] using mover_of_posAfter_ne hne

/-- No operation writes the byte order, and Reset keeps it (R66). -/
theorem Effect.prefixOrder {act : HostAct} {u t : State} (he : Effect act u t) : t.prefixOrder = u.prefixOrder := by
  cases he <;> rfl

/-- Settles O43: by the cases of what a step can do, Reset among them. -/
theorem byteOrderNeverChanges : Obligations.ByteOrderNeverChanges := by
  intro s t h
  obtain ⟨_, _, _, he⟩ := step_effect h
  exact he.prefixOrder

end Sys2Proof.Machine
end

section
/-! PROOFS. The protocol numbers (30_encoding.md R86, R92, 40_decoder.md R130, R131): the rows that bits select, the classes they
show and the table they follow. -/

namespace Sys2Proof.Machine

open Sys2Proof.Claims

/-- The class of a number is that of its table row, and 0 without one. -/
theorem protoClass_eq_find (pr : Byte) :
    protoClass pr = ((protocolTable.find? (fun row => row.1 == pr)).map (fun row => row.2.1)).getD 0 := by
  decide +revert

theorem protoClass_of_mem {row : Byte × BitVec 4 × String} (h : row ∈ protocolTable) :
    protoClass row.1 = row.2.1 ∧ row.2.1 ≠ 0 ∧ protoName row.2.1 = some row.2.2 := by
  revert row
  decide

theorem protoClass_eq_zero_iff (pr : Byte) : protoClass pr = 0 ↔ pr ∉ protocolTable.map (fun row => row.1) := by
  constructor
  · intro h hmem
    obtain ⟨row, hrow, rfl⟩ := List.mem_map.mp hmem
    obtain ⟨hclass, hne, -⟩ := protoClass_of_mem hrow
    exact hne (hclass.symm.trans h)
  · intro h
    have hnone : protocolTable.find? (fun row => row.1 == pr) = none := by
      rw [List.find?_eq_none]
      intro row hrow heq
      exact h (List.mem_map.mpr ⟨row, hrow, beq_iff_eq.mp heq⟩)
    rw [protoClass_eq_find, hnone]
    rfl

/-- Settles O11: the row that holds the number gives class and name, and a number without one has class 0. -/
theorem protocolClassFollowsTheTable : Obligations.ProtocolClassFollowsTheTable := by
  intro pr
  have hclass := protoClass_eq_find pr
  split
  next row hrow =>
    obtain ⟨-, -, hname⟩ := protoClass_of_mem (List.mem_of_find?_eq_some hrow)
    have hc : protoClass pr = row.2.1 := by simpa [hrow] using hclass
    exact ⟨hc, hc ▸ hname⟩
  next hrow =>
    have hc : protoClass pr = 0 := by simpa [hrow] using hclass
    exact ⟨hc, hc ▸ rfl⟩

/-- The PROTO rows are those of the table. -/
theorem protoRows_numbers : protoRows.map (fun row => row.2.1) = protocolTable.map (fun row => row.1) := rfl

/-- Every PROTO row but the default one tests the whole byte, and its number has its class (R86). -/
theorem protoRows_match {row : Byte × Byte × Instr} (h : row ∈ protoRows) :
    row.1 = 0xFF ∧ row.2.2.wellFormed = true ∧ protoClass row.2.1 ≠ 0 := by
  revert row
  decide

/-- A PROTO row shows the class of its number. -/
theorem exec_protoRow {row : Byte × Byte × Instr} (h : row ∈ protoRows) (s : State) :
    exec row.2.2 s = .next (answerWith (.protoClass (protoClass row.2.1)) s) := by
  simp only [protoRows, List.mem_cons, List.not_mem_nil, or_false] at h
  rcases h with rfl | rfl | rfl | rfl | rfl | rfl | rfl | rfl | rfl | rfl | rfl | rfl <;> rfl

theorem and_fullMask (pr : Byte) : pr &&& 0xFF = pr := BitVec.and_allOnes

/-- A number selects its own row, and the default row where the table has none (R92). -/
theorem decodeProto_cases (pr : Byte) :
    (∃ row ∈ protoRows, row.2.1 = pr ∧ decodeProto pr = row.2.2) ∨
      (protoClass pr = 0 ∧ decodeProto pr = .protoUnknown pr) := by
  unfold decodeProto
  split
  next row hrow =>
    have hmem := List.mem_of_find?_eq_some hrow
    have hmatch := eq_of_beq (List.find?_some (p := fun row : Byte × Byte × Instr => pr &&& row.1 == row.2.1) hrow)
    rw [(protoRows_match hmem).1, and_fullMask] at hmatch
    exact .inl ⟨row, hmem, hmatch.symm, rfl⟩
  next hnone =>
    refine .inr ⟨(protoClass_eq_zero_iff pr).mpr fun hlisted => ?_, rfl⟩
    rw [← protoRows_numbers] at hlisted
    obtain ⟨row, hmem, rfl⟩ := List.mem_map.mp hlisted
    have hmask := (protoRows_match hmem).1
    exact List.find?_eq_none.mp hnone row hmem (by rw [hmask, and_fullMask]; exact beq_self_eq_true _)

theorem decodeProto_of_protoClass_eq_zero {pr : Byte} (h : protoClass pr = 0) : decodeProto pr = .protoUnknown pr := by
  rcases decodeProto_cases pr with ⟨row, hmem, rfl, -⟩ | ⟨-, hdec⟩
  · exact absurd h (protoRows_match hmem).2.2
  · exact hdec

/-- The row that a number selects shows the class of that number. -/
theorem exec_decodeProto (pr : Byte) (s : State) :
    exec (decodeProto pr) s = .next (answerWith (.protoClass (protoClass pr)) s) := by
  rcases decodeProto_cases pr with ⟨row, hmem, rfl, hdec⟩ | ⟨hclass, hdec⟩ <;> rw [hdec]
  · exact exec_protoRow hmem s
  · rw [hclass]
    exact if_pos hclass

/-- Settles O17: each row shows its own class, and the default row tests that its number has no other. -/
theorem protocolRowsComplete : Obligations.ProtocolRowsComplete := by
  intro s
  refine ⟨rfl, rfl, rfl, rfl, rfl, rfl, rfl, rfl, rfl, rfl, rfl, rfl, fun pr hpr => ?_, fun pr hpr => ?_⟩
  · exact if_pos ((protoClass_eq_zero_iff pr).mpr hpr)
  · exact if_neg fun hclass => (protoClass_eq_zero_iff pr).mp hclass hpr

/-- Settles O34: `step` takes the act and runs the row it selects. -/
theorem stepRunsTheDecodedRow : Obligations.StepRunsTheDecodedRow := by
  intro s act rest i hin hdec
  rw [← State.popped_eq hin]
  simp only [step, hin, hdec]

/-- Settles O18: the number selects the row that shows its class, which is that of the table. -/
theorem protocolNumberStepShowsItsClass : Obligations.ProtocolNumberStepShowsItsClass := by
  intro s pr rest hin
  rw [stepRunsTheDecodedRow s _ rest (decodeProto pr) hin rfl, exec_decodeProto, protoClass_eq_find]
  rfl

end Sys2Proof.Machine
end


section
/-! PROOFS. The decoder and the encoder agree on every row (30_encoding.md R92, 41_reader.md R140). -/

namespace Sys2Proof.Machine

/-! ### The row that a stream symbol selects, rule by rule -/

section
variable {sit : Situation} {b : Byte}

theorem selectCount_byte (hi : sit.preIdx ≠ 3) : selectCount sit (.byte b) = .recCount (.byte b) := if_neg hi

theorem selectCount_none (hi : sit.preIdx = 3) (hc : (completedWord sit.prefixOrder sit.preBuf b).toInt ≤ 0) :
    selectCount sit (.byte b) = .clsCountNone b :=
  (if_pos hi).trans (if_pos ((countIsNone_iff _).mpr hc))

theorem selectCount_frames (hi : sit.preIdx = 3) (hc : 0 < (completedWord sit.prefixOrder sit.preBuf b).toInt) :
    selectCount sit (.byte b) = .clsCountFrames b :=
  (if_pos hi).trans (if_neg (mt (countIsNone_iff _).mp (not_le.mpr hc)))

theorem selectCount_empty (hi : sit.preIdx = 0) : selectCount sit .eos = .clsCountEmpty := if_pos hi

theorem selectCount_eos (hi : sit.preIdx ≠ 0) : selectCount sit .eos = .recCount .eos := if_neg hi

theorem selectSize_byte (hi : sit.preIdx ≠ 3) : selectSize sit (.byte b) = .recSize (.byte b) := if_neg hi

theorem selectSize_overflow (hi : sit.preIdx = 3) (hn : 2048 < (completedWord sit.prefixOrder sit.preBuf b).toInt) :
    selectSize sit (.byte b) = .clsSizeOverflow b :=
  (if_pos hi).trans (if_pos ((sizeOverflows_iff _).mpr hn))

theorem selectSize_undersize (hi : sit.preIdx = 3) (hn : (completedWord sit.prefixOrder sit.preBuf b).toInt < 20) :
    selectSize sit (.byte b) = .clsSizeUndersize b :=
  (if_pos hi).trans ((if_neg (mt (sizeOverflows_iff _).mp (by omega))).trans (if_pos ((sizeUndersize_iff _).mpr hn)))

theorem selectSize_accept (hi : sit.preIdx = 3) (hl : 20 ≤ (completedWord sit.prefixOrder sit.preBuf b).toInt)
    (hu : (completedWord sit.prefixOrder sit.preBuf b).toInt ≤ 2048) : selectSize sit (.byte b) = .clsSizeAccept b :=
  (if_pos hi).trans ((if_neg (mt (sizeOverflows_iff _).mp (by omega))).trans (if_neg (mt (sizeUndersize_iff _).mp (by omega))))

theorem selectRow_count (hp : sit.phase = .count) (sym : Symbol) : selectRow sit sym = some (selectCount sit sym) := by
  simp only [selectRow, hp]

theorem selectRow_size (hp : sit.phase = .size) (sym : Symbol) : selectRow sit sym = some (selectSize sit sym) := by
  simp only [selectRow, hp]

theorem selectRow_body (hp : sit.phase = .body) (sym : Symbol) : selectRow sit sym = some (.recBody sym) := by
  simp only [selectRow, hp]

/-- A row that the situation admits is the one that its symbol selects. -/
theorem selectRow_of_admits {sym : Symbol} {i : Instr} (he : encode i = .answer sym) (ha : sit.admits i) :
    selectRow sit sym = some i := by
  cases i with
  | recCount sym' =>
    cases he
    cases sym with
    | byte b => rw [selectRow_count ha.1, selectCount_byte ha.2]
    | eos => rw [selectRow_count ha.1, selectCount_eos ha.2]
    | fail => exact selectRow_count ha _
  | recSize sym' =>
    cases he
    cases sym with
    | byte b => rw [selectRow_size ha.1, selectSize_byte ha.2]
    | eos | fail => exact selectRow_size ha _
  | recBody sym' => cases he; exact selectRow_body ha _
  | clsCountEmpty => cases he; rw [selectRow_count ha.1, selectCount_empty ha.2]
  | clsCountNone b => cases he; obtain ⟨hp, hi, hc⟩ := ha; rw [selectRow_count hp, selectCount_none hi hc]
  | clsCountFrames b => cases he; obtain ⟨hp, hi, hc⟩ := ha; rw [selectRow_count hp, selectCount_frames hi hc]
  | clsSizeOverflow b => cases he; obtain ⟨hp, hi, hn⟩ := ha; rw [selectRow_size hp, selectSize_overflow hi hn]
  | clsSizeAccept b => cases he; obtain ⟨hp, hi, hl, hu⟩ := ha; rw [selectRow_size hp, selectSize_accept hi hl hu]
  | clsSizeUndersize b => cases he; obtain ⟨hp, hi, hn⟩ := ha; rw [selectRow_size hp, selectSize_undersize hi hn]
  | _ => cases he

theorem decodeAct_answer_of_admits {sym : Symbol} {i : Instr} (he : encode i = .answer sym) (ha : sit.admits i) :
    decodeAct sit (.answer sym) = .instr i := by
  simp only [decodeAct, selectRow_of_admits he ha]

end

/-- Settles O2: a header row by its length, the default protocol row by its number, the reader's rows by their situation, and
every other row by its act alone. -/
theorem encodedRowsDecodeBack : Obligations.EncodedRowsDecodeBack := by
  intro i sit hw ha
  cases i with
  | decVersion | decIhl | decTos | decTotalLength | decIdentification | decFlags | decFragOffset | decTtl | decProtocol
  | decChecksum | decSrcAddr | decDstAddr | decode => exact if_pos hw
  | protoUnknown pr => exact congrArg Decoded.instr (decodeProto_of_protoClass_eq_zero (eq_of_beq hw))
  | recCount | recSize | recBody | clsCountEmpty | clsCountNone | clsCountFrames | clsSizeOverflow | clsSizeAccept
  | clsSizeUndersize => exact decodeAct_answer_of_admits rfl ha
  | _ => rfl

/-! ### What the decoder gives -/

section
variable {sit : Situation}

theorem selectCount_sound (hp : sit.phase = .count) (sym : Symbol) :
    (selectCount sit sym).wellFormed = true ∧ sit.admits (selectCount sit sym) := by
  cases sym with
  | byte b =>
    by_cases hi : sit.preIdx = 3
    · rcases le_or_gt (completedWord sit.prefixOrder sit.preBuf b).toInt 0 with hc | hc
      · rw [selectCount_none hi hc]; exact ⟨rfl, hp, hi, hc⟩
      · rw [selectCount_frames hi hc]; exact ⟨rfl, hp, hi, hc⟩
    · rw [selectCount_byte hi]; exact ⟨rfl, hp, hi⟩
  | eos =>
    by_cases hi : sit.preIdx = 0
    · rw [selectCount_empty hi]; exact ⟨rfl, hp, hi⟩
    · rw [selectCount_eos hi]; exact ⟨rfl, hp, hi⟩
  | fail => exact ⟨rfl, hp⟩

theorem selectSize_sound (hp : sit.phase = .size) (sym : Symbol) :
    (selectSize sit sym).wellFormed = true ∧ sit.admits (selectSize sit sym) := by
  cases sym with
  | byte b =>
    by_cases hi : sit.preIdx = 3
    · rcases lt_or_ge 2048 (completedWord sit.prefixOrder sit.preBuf b).toInt with ho | hu
      · rw [selectSize_overflow hi ho]; exact ⟨rfl, hp, hi, ho⟩
      · rcases lt_or_ge (completedWord sit.prefixOrder sit.preBuf b).toInt 20 with hn | hl
        · rw [selectSize_undersize hi hn]; exact ⟨rfl, hp, hi, hn⟩
        · rw [selectSize_accept hi hl hu]; exact ⟨rfl, hp, hi, hl, hu⟩
    · rw [selectSize_byte hi]; exact ⟨rfl, hp, hi⟩
  | eos | fail => exact ⟨rfl, hp⟩

/-- The row that a symbol selects is well formed, and its situation admits it. -/
theorem selectRow_sound {sym : Symbol} {i : Instr} (h : selectRow sit sym = some i) : i.wellFormed = true ∧ sit.admits i := by
  cases hp : sit.phase with
  | idle | done | error => simp [selectRow, hp] at h
  | count => exact Option.some.inj ((selectRow_count hp sym).symm.trans h) ▸ selectCount_sound hp sym
  | size => exact Option.some.inj ((selectRow_size hp sym).symm.trans h) ▸ selectSize_sound hp sym
  | body => exact Option.some.inj ((selectRow_body hp sym).symm.trans h) ▸ ⟨rfl, hp⟩

end

/-- A protocol row is selected whatever the situation. -/
theorem admits_protoRow (sit : Situation) : ∀ row ∈ protoRows, sit.admits row.2.2 := by
  simp [protoRows, Situation.admits]

theorem decodeProto_sound (sit : Situation) (pr : Byte) : (decodeProto pr).wellFormed = true ∧ sit.admits (decodeProto pr) := by
  rcases decodeProto_cases pr with ⟨row, hmem, -, hdec⟩ | ⟨hclass, hdec⟩ <;> rw [hdec]
  · exact ⟨(protoRows_match hmem).2.1, admits_protoRow sit row hmem⟩
  · exact ⟨beq_iff_eq.mpr hclass, trivial⟩

/-- The row of a header request is well formed exactly when its source is, and any situation admits it. -/
theorem headerInstr_sound (sit : Situation) (sel : HdrSel) (src : HdrSrc) :
    (headerInstr sel src).wellFormed = src.wellFormed ∧ sit.admits (headerInstr sel src) := by
  cases sel <;> exact ⟨rfl, trivial⟩

theorem decodeWord_sound {bytes : List Byte} {i : Instr} (sit : Situation) (h : decodeWord bytes = .ok i) :
    i.wellFormed = true ∧ sit.admits i := by
  unfold decodeWord at h
  split at h
  next pr => cases h; exact decodeProto_sound sit pr
  next => cases h; exact ⟨rfl, trivial⟩
  next =>
    split at h
    next hl => cases h; exact ⟨(headerWellFormed_iff bytes).mpr hl.ge, trivial⟩
    next => cases h

/-- The decoder gives only well-formed rows, each in a situation that admits it. -/
theorem decodeAct_sound {sit : Situation} {act : HostAct} {i : Instr} (h : decodeAct sit act = .instr i) :
    i.wellFormed = true ∧ sit.admits i := by
  cases act with
  | start | reset => cases h; exact ⟨rfl, trivial⟩
  | answer sym =>
    cases hs : selectRow sit sym with
    | none => simp [decodeAct, hs] at h
    | some j =>
      simp only [decodeAct, hs] at h
      cases h
      exact selectRow_sound hs
  | word bytes =>
    cases hd : decodeWord bytes with
    | error e => simp [decodeAct, hd] at h
    | ok j =>
      simp only [decodeAct, hd] at h
      cases h
      exact decodeWord_sound sit hd
  | header sel src =>
    cases hw : src.wellFormed with
    | false => simp [decodeAct, hw] at h
    | true =>
      simp only [decodeAct, hw, if_true] at h
      cases h
      obtain ⟨hwf, hadm⟩ := headerInstr_sound sit sel src
      exact ⟨hwf.trans hw, hadm⟩
  | readClass | readReg | writeReg => cases h

/-- Settles O1: each word stands in its table row, and each completed value is evaluated. -/
theorem writtenWordsDecodeToTheirRows : Obligations.WrittenWordsDecodeToTheirRows := by
  refine ⟨fun sit => ⟨rfl, rfl, rfl, rfl, rfl⟩, ?_, ?_, ?_, ?_, ?_⟩ <;> decide

/-- Settles O3: another admitted row of the act would be what the act decodes to, by O2. -/
theorem decodedRowsAreWellFormedAndAdmitted : Obligations.DecodedRowsAreWellFormedAndAdmitted := by
  intro sit act i h
  obtain ⟨hwf, hadm⟩ := decodeAct_sound h
  refine ⟨hwf, hadm, fun j hj hjw hja => ?_⟩
  have hback := encodedRowsDecodeBack j sit hjw hja
  rw [hj, h] at hback
  exact (Decoded.instr.inj hback).symm

/-! ### Rows outside their situation -/

theorem not_countIsNone_iff (c : Word) : (!countIsNone c) = true ↔ 0 < c.toInt := by
  rw [Bool.not_eq_true', ← Bool.not_eq_true, countIsNone_iff, not_le]

theorem not_sizeOverflows_iff (n : Word) : (!sizeOverflows n) = true ↔ n.toInt ≤ 2048 := by
  rw [Bool.not_eq_true', ← Bool.not_eq_true, sizeOverflows_iff, not_lt]

theorem not_sizeUndersize_iff (n : Word) : (!sizeUndersize n) = true ↔ 20 ≤ n.toInt := by
  rw [Bool.not_eq_true', ← Bool.not_eq_true, sizeUndersize_iff, not_lt]

/-- A class row tests the situation of its rule. -/
theorem exec_classRow_refused {s : State} {i : Instr} (b : Byte)
    (hi : i ∈ [.clsCountEmpty, .clsCountNone b, .clsCountFrames b, .clsSizeOverflow b, .clsSizeAccept b, .clsSizeUndersize b])
    (ha : ¬ s.situation.admits i) : exec i s = .refused .rowNotSelected := by
  simp only [List.mem_cons, List.not_mem_nil, or_false] at hi
  rcases hi with rfl | rfl | rfl | rfl | rfl | rfl
  · exact if_neg ha
  · exact if_neg fun ⟨hp, hx, hc⟩ => ha ⟨hp, hx, (countIsNone_iff _).mp hc⟩
  · exact if_neg fun ⟨hp, hx, hc⟩ => ha ⟨hp, hx, (not_countIsNone_iff _).mp hc⟩
  · exact if_neg fun ⟨hp, hx, hn⟩ => ha ⟨hp, hx, (sizeOverflows_iff _).mp hn⟩
  · exact if_neg fun ⟨hp, hx, ho, hu⟩ => ha ⟨hp, hx, (not_sizeUndersize_iff _).mp hu, (not_sizeOverflows_iff _).mp ho⟩
  · exact if_neg fun ⟨hp, hx, hn⟩ => ha ⟨hp, hx, (sizeUndersize_iff _).mp hn⟩

/-- Settles O33: class row by class row, and a record row by its phase alone. -/
theorem rowsOutsideTheirSituationAreRefused : Obligations.RowsOutsideTheirSituationAreRefused := by
  intro s i b sym
  exact ⟨exec_classRow_refused b, fun hp => if_neg hp, fun hp => if_neg hp, fun hp => if_neg hp⟩

end Sys2Proof.Machine
end

section
/-! PROOFS. The twenty bytes of a header and its fields (30_encoding.md R84, R91, 40_decoder.md R102 to R114): every field is a
concatenation of parts of bytes, and every byte one of parts of fields. -/

namespace Sys2Proof.Machine

/-! ### Concatenations -/

theorem append_toNat {w n : Nat} (x : BitVec w) (y : BitVec n) : (x ++ y).toNat = 2 ^ n * x.toNat + y.toNat := by
  rw [BitVec.toNat_append, ← Nat.shiftLeft_add_eq_or_of_lt y.isLt, Nat.shiftLeft_eq, Nat.mul_comm]

/-- Bits of some of the bits. -/
theorem extractLsb'_extractLsb' {w start len start' len' : Nat} {x : BitVec w} (h : start' + len' ≤ len) :
    (x.extractLsb' start len).extractLsb' start' len' = x.extractLsb' (start + start') len' := by
  apply BitVec.eq_of_getLsbD_eq
  intro i hi
  have hlt : start' + i < len := by omega
  simp only [BitVec.getLsbD_extractLsb', hi, hlt, decide_true, Bool.true_and, Nat.add_assoc]

/-- What stands above the low byte. -/
theorem extractLsb'_high_toNat {w : Nat} (v : BitVec (w + 8)) : (v.extractLsb' 8 w).toNat = v.toNat / 256 := by
  rw [BitVec.extractLsb'_toNat, Nat.shiftRight_eq_div_pow]
  exact Nat.mod_eq_of_lt (Nat.div_lt_of_lt_mul (by have := v.isLt; rw [Nat.pow_add] at this; omega))

/-- Two nibbles put together by a shift, as R91 writes byte 0. -/
theorem nibbles_eq_append (x y : BitVec 4) : (x.setWidth 8 <<< 4) ||| y.setWidth 8 = x ++ y := by
  rw [← BitVec.setWidth_append_eq_shiftLeft_setWidth_or, BitVec.setWidth_eq]

/-- The three high bits and the five low bits of byte 6, put together by an or, as R91 writes it. -/
theorem flagBits_or_setWidth (x : BitVec 3) (y : BitVec 5) : (x ++ (0 : BitVec 5)) ||| y.setWidth 8 = x ++ y := by
  have hy : y.setWidth 8 = (0 : BitVec 3) ++ y := BitVec.setWidth_eq_append (by decide)
  rw [hy, BitVec.or_append]
  simp

theorem byte_nibbles (b : Byte) : b.extractLsb' 4 4 ++ b.extractLsb' 0 4 = b :=
  BitVec.extractLsb'_append_extractLsb' (w := 4) (len := 4)

theorem byte_flagBits (b : Byte) : b.extractLsb' 5 3 ++ b.extractLsb' 0 5 = b :=
  BitVec.extractLsb'_append_extractLsb' (w := 3) (len := 5)

/-- The high three bits of a byte, where they stand (R107). -/
theorem and_flagMask (b : Byte) : b &&& 0xE0 = b.extractLsb' 5 3 ++ (0 : BitVec 5) := by
  calc b &&& 0xE0 = (b.extractLsb' 5 3 ++ b.extractLsb' 0 5) &&& (BitVec.allOnes 3 ++ (0 : BitVec 5)) := by
        rw [byte_flagBits]; rfl
    _ = b.extractLsb' 5 3 ++ (0 : BitVec 5) := by rw [BitVec.and_append, BitVec.and_allOnes]; simp

theorem and_offsetMask (b : Byte) : b &&& 0x1F = (0 : BitVec 3) ++ b.extractLsb' 0 5 := by
  rw [← BitVec.setWidth_eq_extractLsb' (by decide)]
  exact BitVec.and_setWidth_allOnes 3 5 b

/-! ### The fields -/

theorem versionOf_eq (h : HeaderBytes) : versionOf h = h[0].extractLsb' 4 4 := BitVec.setWidth_ushiftRight_eq_extractLsb

theorem ihlOf_eq (h : HeaderBytes) : ihlOf h = h[0].extractLsb' 0 4 := by
  rw [ihlOf, BitVec.setWidth_and, ← BitVec.setWidth_eq_extractLsb' (by decide)]
  exact BitVec.and_allOnes

theorem flagsOf_eq (h : HeaderBytes) : flagsOf h = h[6].extractLsb' 5 3 ++ (0 : BitVec 5) := and_flagMask h[6]

theorem fragOffsetOf_eq (h : HeaderBytes) : fragOffsetOf h = h[6].extractLsb' 0 5 ++ h[7] := by
  rw [fragOffsetOf, and_offsetMask, merge16_eq_append, BitVec.append_assoc]
  exact BitVec.setWidth_append_eq_right

/-- The two bytes of a 16-bit field. -/
theorem merge16_extractLsb' (v : Half) : merge16 (v.extractLsb' 8 8) (v.extractLsb' 0 8) = v := by
  rw [merge16_eq_append]
  exact BitVec.extractLsb'_append_extractLsb'

theorem merge16_high (b1 b2 : Byte) : (merge16 b1 b2).extractLsb' 8 8 = b1 := by
  rw [merge16_eq_append, BitVec.extractLsb'_append_eq_left]

theorem merge16_low (b1 b2 : Byte) : (merge16 b1 b2).extractLsb' 0 8 = b2 := by
  rw [merge16_eq_append, BitVec.extractLsb'_append_eq_right]

/-! ### A field is bits of the header word -/

theorem headerWord_byte (h : HeaderBytes) (k : Nat) (hk : k < 20) : (headerWord h).extractLsb' (8 * (19 - k)) 8 = h[k] := by
  apply BitVec.eq_of_getLsbD_eq
  intro j hj
  rw [BitVec.getLsbD_extractLsb', headerWord_getLsbD h k j hk hj]
  simp [hj]

/-- Two bytes of the header side by side are Merge16's value of them. -/
theorem headerWord_half (h : HeaderBytes) (k : Nat) (hk : k + 1 < 20) :
    (headerWord h).extractLsb' (8 * (18 - k)) 16 = merge16 h[k] h[k + 1] := by
  have hhigh := headerWord_byte h k (by omega)
  have hlow := headerWord_byte h (k + 1) hk
  rw [show 8 * (19 - k) = 8 * (18 - k) + 8 by omega] at hhigh
  rw [show 8 * (19 - (k + 1)) = 8 * (18 - k) by omega] at hlow
  rw [merge16_eq_append, ← hhigh, ← hlow, BitVec.extractLsb'_append_extractLsb'_eq_extractLsb' rfl]

/-- Some bits of a byte of the header. -/
theorem headerWord_bits (h : HeaderBytes) (k start len : Nat) (hk : k < 20) (hl : start + len ≤ 8) :
    (headerWord h).extractLsb' (8 * (19 - k) + start) len = h[k].extractLsb' start len := by
  rw [← headerWord_byte h k hk, extractLsb'_extractLsb' hl]

theorem headerWord_fragOffset (h : HeaderBytes) :
    (headerWord h).extractLsb' 96 13 = h[6].extractLsb' 0 5 ++ h[7] := by
  rw [← headerWord_bits h 6 0 5 (by decide) (by decide), ← headerWord_byte h 7 (by decide)]
  exact (BitVec.extractLsb'_append_extractLsb'_eq_extractLsb' (start₂ := 96 + 8) (len₂ := 5) rfl).symm

/-- Settles O6: each field is its bytes, and each byte its place in the word. -/
theorem fieldsAreBitsOfTheHeaderWord : Obligations.FieldsAreBitsOfTheHeaderWord := by
  intro h
  have hbyte := fun k hk => (headerWord_byte h k hk).symm
  have hhalf := fun k hk => (headerWord_half h k hk).symm
  have hbits := fun k start len hk hl => (headerWord_bits h k start len hk hl).symm
  refine ⟨headerWord_byte h 0 (by decide), headerWord_byte h 19 (by decide),
    (versionOf_eq h).trans (hbits 0 4 4 (by decide) (by decide)), (ihlOf_eq h).trans (hbits 0 0 4 (by decide) (by decide)),
    hbyte 1 (by decide), hhalf 2 (by decide), hhalf 4 (by decide), ?_,
    (fragOffsetOf_eq h).trans (headerWord_fragOffset h).symm, hbyte 8 (by decide), hbyte 9 (by decide), hhalf 10 (by decide),
    ?_, ?_⟩
  · exact (flagsOf_eq h).trans (congrArg (· ++ (0 : BitVec 5)) (hbits 6 5 3 (by decide) (by decide)))
  · rw [show (decodeHeader h).src = #v[h[12], h[13], h[14], h[15]] from rfl, hbyte 12 (by decide), hbyte 13 (by decide),
      hbyte 14 (by decide), hbyte 15 (by decide)]
  · rw [show (decodeHeader h).dst = #v[h[16], h[17], h[18], h[19]] from rfl, hbyte 16 (by decide), hbyte 17 (by decide),
      hbyte 18 (by decide), hbyte 19 (by decide)]

/-! ### Encoding and decoding -/

theorem HeaderBytes.eq_literal (h : HeaderBytes) :
    #v[h[0], h[1], h[2], h[3], h[4], h[5], h[6], h[7], h[8], h[9], h[10], h[11], h[12], h[13], h[14], h[15], h[16], h[17], h[18],
      h[19]] = h := by
  apply Vector.ext
  intro i hi
  interval_cases i <;> rfl

/-- Settles O5: every byte is put together again from the parts that its fields hold. -/
theorem decodedFieldsDetermineTheHeader : Obligations.DecodedFieldsDetermineTheHeader := by
  intro h
  rw [headerBytes]
  simp only [decodeHeader, versionOf_eq, ihlOf_eq, nibbles_eq_append, byte_nibbles, tosOf, totalLengthOf, identificationOf,
    merge16_high, merge16_low, flagsOf_eq, fragOffsetOf_eq, BitVec.extractLsb'_append_eq_left, BitVec.extractLsb'_append_eq_right,
    flagBits_or_setWidth, byte_flagBits, ttlOf, protocolOf, checksumOf, srcOf, dstOf]
  exact h.eq_literal


theorem octets_eq_literal (a : Vector Byte 4) : #v[a[0], a[1], a[2], a[3]] = a := by
  apply Vector.ext
  intro i hi
  interval_cases i <;> rfl

/-- `flags` of a header has its five low bits clear (R91). -/
theorem flags_eq_append {b : Byte} (h : b.toNat % 32 = 0) : b = b.extractLsb' 5 3 ++ (0 : BitVec 5) := by
  have hlow : b.extractLsb' 0 5 = 0 := by
    apply BitVec.eq_of_toNat_eq
    simpa using h
  rw [← hlow, byte_flagBits]

section
variable (d : DecodedHeader)

theorem headerBytes_zero : (headerBytes d)[0] = d.version ++ d.ihl := nibbles_eq_append d.version d.ihl

theorem headerBytes_six (hf : d.flags.toNat % 32 = 0) :
    (headerBytes d)[6] = d.flags.extractLsb' 5 3 ++ d.fragOffset.extractLsb' 8 5 := by
  rw [← flagBits_or_setWidth, ← flags_eq_append hf]
  rfl

theorem decodeHeader_headerBytes (hf : d.flags.toNat % 32 = 0) : decodeHeader (headerBytes d) = d := by
  have hversion : versionOf (headerBytes d) = d.version := by
    rw [versionOf_eq, headerBytes_zero, BitVec.extractLsb'_append_eq_left]
  have hihl : ihlOf (headerBytes d) = d.ihl := by
    rw [ihlOf_eq, headerBytes_zero, BitVec.extractLsb'_append_eq_right]
  have hflags : flagsOf (headerBytes d) = d.flags := by
    rw [flagsOf_eq, headerBytes_six d hf, BitVec.extractLsb'_append_eq_left, ← flags_eq_append hf]
  have hoffset : fragOffsetOf (headerBytes d) = d.fragOffset := by
    rw [fragOffsetOf_eq, headerBytes_six d hf, BitVec.extractLsb'_append_eq_right]
    exact BitVec.extractLsb'_append_extractLsb'
  have hlength : totalLengthOf (headerBytes d) = d.totalLength := merge16_extractLsb' _
  have hident : identificationOf (headerBytes d) = d.identification := merge16_extractLsb' _
  have hchecksum : checksumOf (headerBytes d) = d.checksum := merge16_extractLsb' _
  have hsrc : srcOf (headerBytes d) = d.src := octets_eq_literal _
  have hdst : dstOf (headerBytes d) = d.dst := octets_eq_literal _
  rw [decodeHeader, hversion, hihl, hflags, hoffset, hlength, hident, hchecksum, hsrc, hdst]
  rfl

theorem headerBytes_zero_toNat : (headerBytes d)[0].toNat = 16 * d.version.toNat + d.ihl.toNat := by
  rw [headerBytes_zero, append_toNat]
  rfl

theorem headerBytes_six_toNat (hf : d.flags.toNat % 32 = 0) :
    (headerBytes d)[6].toNat = d.flags.toNat + d.fragOffset.toNat / 256 := by
  have hflags : d.flags.toNat = 32 * (d.flags.extractLsb' 5 3).toNat := by
    conv_lhs => rw [flags_eq_append hf, append_toNat]
    rfl
  have hoffset : (d.fragOffset.extractLsb' 8 5).toNat = d.fragOffset.toNat / 256 := extractLsb'_high_toNat _
  rw [headerBytes_six d hf, append_toNat, hflags, hoffset]
  rfl

end

/-- Settles O4: each field is found again in the bytes that hold its parts. -/
theorem headerDirectiveDecodesBack : Obligations.HeaderDirectiveDecodesBack := by
  intro d hf
  refine ⟨decodeHeader_headerBytes d hf, headerBytes_zero_toNat d, rfl, extractLsb'_high_toNat _, rfl,
    extractLsb'_high_toNat _, rfl, headerBytes_six_toNat d hf, rfl, rfl, rfl, extractLsb'_high_toNat _, rfl,
    fun j hj => ?_, fun j hj => ?_⟩
  · interval_cases j <;> rfl
  · interval_cases j <;> rfl

end Sys2Proof.Machine
end

section
/-! PROOFS. The run over a whole container (30_encoding.md R80, 41_reader.md R158 to R163). -/

namespace Sys2Proof.Machine

open Sys2Proof.Claims

/-! ### The count -/

theorem step_answer {s : State} {sym : Symbol} {rest : List HostAct} {i : Instr} (hin : s.inbox = .answer sym :: rest)
    (hsel : selectRow s.situation sym = some i) : step s = exec i s.popped := by
  simp only [step, hin, decodeAct, hsel]

/-- What follows a completed count: the end of the run, or the first size (R145). -/
def afterCount (s : State) : State := if s.count.toInt ≤ 0 then finish s else enter .size s

theorem step_completedCount {s : State} {b : Byte} {rest : List HostAct} (hin : s.inbox = .answer (.byte b) :: rest)
    (hp : s.phase = .count) (hi : s.preIdx = 3) : step s = .next (afterCount (completeCount b s.popped)) := by
  rw [step_answer hin (selectRow_count hp _), afterCount, completeCount_count, State.popped_completed]
  by_cases hc : (s.completed b).toInt ≤ 0
  · rw [selectCount_none (sit := s.situation) hi hc, if_pos hc]
    exact if_pos ⟨hp, hi, (countIsNone_iff _).mpr hc⟩
  · rw [selectCount_frames (sit := s.situation) hi (not_le.mp hc), if_neg hc]
    exact if_pos ⟨hp, hi, (not_countIsNone_iff _).mpr (not_le.mp hc)⟩

/-- The state once the count `c` has been read (R145). -/
def readCount (c : Word) (rest : List HostAct) (s : State) : State :=
  { s with
    preIdx := 0, preBuf := heldBytes (wordBytes s.prefixOrder c), count := c, framesDone := 0, pos := s.pos + 4
    events := s.events ++ [.count c], inbox := rest }

theorem completeCount_holdPrefix {s : State} {c : Word} {p0 p1 p2 p3 : Byte} {rest : List HostAct}
    (hw : wordBytes s.prefixOrder c = [p0, p1, p2, p3]) (hc : assemble32 s.prefixOrder p0 p1 p2 p3 = c) :
    completeCount p3 (holdPrefix p0 p1 p2 (answers [p3] ++ rest) s).popped = readCount c rest s := by
  have hbuf : (#v[p0, p1, p2, s.preBuf[3]] : Vector Byte 4).set 3 p3 = heldBytes [p0, p1, p2, p3] := rfl
  have hval : (holdPrefix p0 p1 p2 (answers [p3] ++ rest) s).completed p3 = c := hc
  have hpos : s.pos + 3 + 1 = s.pos + 4 := by rw [add_assoc]; rfl
  rw [readCount, hw, ← hbuf, ← hval, ← hpos]
  rfl

/-- `readFrameCount`: the four bytes of a count are read in four steps (R160). -/
theorem run_count {s : State} {c : Word} {rest : List HostAct} (hp : s.phase = .count) (hi : s.preIdx = 0)
    (hin : s.inbox = answers (wordBytes s.prefixOrder c) ++ rest) :
    core.run 4 s = .next (afterCount (readCount c rest s)) := by
  obtain ⟨p0, p1, p2, p3, hw, hc⟩ := assemble32_wordBytes s.prefixOrder c
  rw [hw] at hin
  have h3 := run_prefix (.inl hp) hi (rest := answers [p3] ++ rest) hin
  have h4 := step_completedCount (s := holdPrefix p0 p1 p2 (answers [p3] ++ rest) s) (b := p3) (rest := rest) rfl hp rfl
  rw [← completeCount_holdPrefix hw hc]
  exact (run_add core 3 1 h3).trans (run_step 0 h4)

/-! ### The frames -/

/-- From `s` the reader has come to DONE in `t`: it consumed `n` bytes and reported `new` and `Done`. -/
structure ReadToDone (s t : State) (n : Nat) (new : List Event) : Prop where
  phase : t.phase = .done
  pos : t.pos = s.pos + BitVec.ofNat 64 n
  framesDone : t.framesDone = s.count
  events : t.events = s.events ++ (new ++ [.done])

theorem frameBytes_length (order : PrefixOrder) (body : List Byte) : (frameBytes order body).length = 4 + body.length := by
  rw [frameBytes, List.length_append, wordBytes_length]

/-- The event of the frame that is read from `s` (R156). -/
def frameEvent (body : List Byte) (s : State) : Event :=
  .frame s.framesDone (decodeHeader (bodyHeader body)) (protoClass (body.getD 9 0))

/-- The state once a frame has been read and reported, before the next (R156, R157). -/
def reportFrame (body : List Byte) (rest : List HostAct) (s : State) : State := completeFrame (readFrame body rest s)

theorem reportFrame_events (body : List Byte) (rest : List HostAct) (s : State) :
    (reportFrame body rest s).events = s.events ++ [frameEvent body s] := by
  simp [reportFrame, readFrame, frameEvent]

/-- The last frame ends the run. -/
theorem readToDone_finish_reportFrame {s : State} {body : List Byte} (rest : List HostAct) (hk : s.framesDone + 1 = s.count) :
    ReadToDone s (finish (reportFrame body rest s)) (4 + body.length) [frameEvent body s] where
  phase := rfl
  pos := rfl
  framesDone := hk
  events := by rw [finish_events, reportFrame_events, List.append_assoc]

/-- A frame before the others of a run. -/
theorem ReadToDone.frame_cons {s t : State} {body : List Byte} {rest : List HostAct} {n : Nat} {new : List Event}
    (h : ReadToDone (enter .size { reportFrame body rest s with preIdx := 0 }) t n new) :
    ReadToDone s t (4 + body.length + n) (frameEvent body s :: new) where
  phase := h.phase
  pos := by
    rw [h.pos, BitVec.ofNat_add, ← add_assoc]
    rfl
  framesDone := h.framesDone
  events := by
    rw [h.events, enter_events, reportFrame_events]
    simp

/-- Frames, numbered from `k`, are read one after the other, and the run ends with the last of them (R157, R158). -/
theorem run_frames {s : State} {k : Nat} {bodies : List (List Byte)} {rest : List HostAct} (hne : bodies ≠ [])
    (hsize : ∀ body ∈ bodies, 20 ≤ body.length ∧ body.length ≤ 2048) (hp : s.phase = .size) (hi : s.preIdx = 0)
    (hk : s.framesDone = BitVec.ofNat 32 k) (hc : s.count = BitVec.ofNat 32 (k + bodies.length))
    (hlt : k + bodies.length < 2147483648)
    (hin : s.inbox = answers (bodies.flatMap (frameBytes s.prefixOrder)) ++ rest) :
    ∃ t, core.run (bodies.flatMap (frameBytes s.prefixOrder)).length s = .next t ∧ t.inbox = rest ∧
      ReadToDone s t (bodies.flatMap (frameBytes s.prefixOrder)).length (frameEvents k bodies) := by
  induction bodies generalizing s k with
  | nil => exact absurd rfl hne
  | cons body bodies ih =>
    obtain ⟨hl, hu⟩ := hsize body List.mem_cons_self
    have hsucc : s.framesDone + 1 = BitVec.ofNat 32 (k + 1) := by rw [hk, BitVec.ofNat_add]; rfl
    have hevent : frameEvents k (body :: bodies) = frameEvent body s :: frameEvents (k + 1) bodies := by
      rw [frameEvents, frameEvent, hk]
    have hframe := run_frame hp hi hl hu (rest := answers (bodies.flatMap (frameBytes s.prefixOrder)) ++ rest)
      (by simpa [answers] using hin)
    rw [List.flatMap_cons, List.length_append, frameBytes_length, run_add core _ _ hframe, hevent]
    by_cases hb : bodies = []
    · subst hb
      have hlast : s.framesDone + 1 = s.count := hsucc.trans hc.symm
      exact ⟨_, congrArg Host.Outcome.next (if_pos hlast), rfl, readToDone_finish_reportFrame _ hlast⟩
    · have hmore := List.length_pos_iff.mpr hb
      rw [List.length_cons, ← Nat.add_assoc, Nat.add_right_comm] at hc hlt
      have hnext : s.framesDone + 1 ≠ s.count := by
        rw [hsucc, hc, Ne, ← BitVec.toNat_inj, BitVec.toNat_ofNat, BitVec.toNat_ofNat]
        omega
      obtain ⟨t, hrun, hrest, ht⟩ := ih hb (fun b hmem => hsize b (List.mem_cons_of_mem _ hmem))
        (s := enter .size { reportFrame body (answers (bodies.flatMap (frameBytes s.prefixOrder)) ++ rest) s with preIdx := 0 })
        rfl rfl hsucc hc hlt rfl
      refine ⟨t, ?_, hrest, ht.frame_cons⟩
      rw [← hrun]
      exact congrArg (core.run _) (if_neg hnext)

/-! ### The container -/

/-- The state once the stream has been opened (R141). -/
def opened (order : PrefixOrder) (acts : List HostAct) : State :=
  { State.reset with phase := .count, prefixOrder := order, inbox := acts }

theorem step_boot (order : PrefixOrder) (acts : List HostAct) : step (boot order acts) = .next (opened order acts) := rfl

theorem run_boot_count (order : PrefixOrder) (c : Word) (rest : List HostAct) :
    core.run (1 + 4) (boot order (answers (wordBytes order c) ++ rest)) =
      .next (afterCount (readCount c rest (opened order (answers (wordBytes order c) ++ rest)))) := by
  rw [Nat.add_comm, run_step 4 (step_boot order _)]
  exact run_count rfl rfl rfl

theorem toInt_ofNat_of_lt {n : Nat} (h : n < 2147483648) : (BitVec.ofNat 32 n).toInt = n := by
  rw [BitVec.toInt_eq_toNat_of_lt] <;> rw [BitVec.toNat_ofNat, Nat.mod_eq_of_lt] <;> omega

/-- A container without frames ends with its count (R145). -/
theorem run_noFrames (order : PrefixOrder) (rest : List HostAct) :
    core.run (1 + 4) (boot order (answers (wordBytes order 0) ++ rest)) =
      .next (finish (readCount 0 rest (opened order (answers (wordBytes order 0) ++ rest)))) :=
  (run_boot_count order 0 rest).trans (congrArg Host.Outcome.next (if_pos (Int.le_refl 0)))

/-- The state in which the first size begins. -/
def firstSize (order : PrefixOrder) (c : Word) (rest : List HostAct) : State :=
  enter .size (readCount c rest (opened order (answers (wordBytes order c) ++ rest)))

/-- A positive count is followed by the first size (R145). -/
theorem run_someFrames (order : PrefixOrder) {c : Word} (rest : List HostAct) (hc : 0 < c.toInt) :
    core.run (1 + 4) (boot order (answers (wordBytes order c) ++ rest)) = .next (firstSize order c rest) :=
  (run_boot_count order c rest).trans (congrArg Host.Outcome.next (if_neg (not_le.mpr hc)))

/-- Settles O60: Start and the count, and then the run ends at once or with the last of the frames. -/
theorem containerIsReadToDone : Obligations.ContainerIsReadToDone := by
  intro order bodies rest hlt hsize
  have hin : answers (containerBytes order bodies) ++ rest = answers (wordBytes order (BitVec.ofNat 32 bodies.length)) ++
      (answers (bodies.flatMap (frameBytes order)) ++ rest) := by simp [containerBytes, answers]
  have hlen : (containerBytes order bodies).length = 4 + (bodies.flatMap (frameBytes order)).length := by
    rw [containerBytes, List.length_append, wordBytes_length]
  rw [hin, hlen, ← Nat.add_assoc]
  by_cases hb : bodies = []
  · subst hb
    exact ⟨_, run_noFrames order rest, rfl, rfl, rfl, rfl, rfl⟩
  · have hcount : 0 < (BitVec.ofNat 32 bodies.length).toInt := by
      rw [toInt_ofNat_of_lt hlt]
      exact Int.natCast_pos.mpr (List.length_pos_iff.mpr hb)
    obtain ⟨t, hrun, hrest, ht⟩ := run_frames (k := 0) (rest := rest)
      (s := firstSize order (BitVec.ofNat 32 bodies.length) (answers (bodies.flatMap (frameBytes order)) ++ rest))
      hb hsize rfl rfl rfl (by rw [Nat.zero_add]; rfl) (by rwa [Nat.zero_add]) rfl
    refine ⟨t, (run_add core _ _ (run_someFrames order _ hcount)).trans hrun, ht.phase, hrest, ?_, ht.framesDone, ht.events⟩
    rw [ht.pos, BitVec.ofNat_add]
    rfl

end Sys2Proof.Machine
end

section
/-! PROOFS. The decoder asked for on its own (40_decoder.md R100 to R117): the merge primitive's laws, the fields in plain
arithmetic, and the header rows on given bytes. -/

namespace Sys2Proof.Machine

open Sys2Proof.Claims

/-! ### Packed addresses -/

/-- Two merged halves side by side are four octets, the first on top (R117). -/
theorem merge16_append_merge16 (a b c d : Byte) : merge16 a b ++ merge16 c d = packedAddress #v[a, b, c, d] := by
  apply BitVec.eq_of_toNat_eq
  rw [packedAddress_eq, append_toNat, merge16_toNat, merge16_toNat]
  show _ = 256 * (256 * (256 * a.toNat + b.toNat) + c.toNat) + d.toNat
  omega

/-- Four bytes of the header side by side are the packed address of them. -/
theorem headerWord_address (h : HeaderBytes) (k : Nat) (hk : k + 3 < 20) :
    (headerWord h).extractLsb' (8 * (16 - k)) 32 = packedAddress #v[h[k], h[k + 1], h[k + 2], h[k + 3]] := by
  have hhigh := headerWord_half h k (by omega)
  have hlow := headerWord_half h (k + 2) hk
  rw [show 8 * (18 - k) = 8 * (16 - k) + 16 by omega] at hhigh
  rw [show 8 * (18 - (k + 2)) = 8 * (16 - k) by omega] at hlow
  rw [← merge16_append_merge16, ← hhigh, ← hlow, BitVec.extractLsb'_append_extractLsb'_eq_extractLsb' rfl]

/-- Settles O7: both words are runs of header bytes, and an octet weighs 256 times the next. -/
theorem packedAddressesAreHeaderWordBits : Obligations.PackedAddressesAreHeaderWordBits := by
  intro h
  refine ⟨(headerWord_address h 12 (by decide)).symm, (headerWord_address h 16 (by decide)).symm, fun a => ?_⟩
  rw [packedAddress_eq]
  omega

/-! ### The merge primitive -/

theorem merge16_injective {b1 b2 c1 c2 : Byte} (h : merge16 b1 b2 = merge16 c1 c2) : b1 = c1 ∧ b2 = c2 := by
  constructor
  · rw [← merge16_high b1 b2, h, merge16_high]
  · rw [← merge16_low b1 b2, h, merge16_low]

theorem merge16_ushiftRight (b1 b2 : Byte) : merge16 b1 b2 >>> 8 = b1.setWidth 16 := by
  have := b1.isLt
  have := b2.isLt
  apply BitVec.eq_of_toNat_eq
  rw [BitVec.toNat_ushiftRight, merge16_toNat, Nat.shiftRight_eq_div_pow, BitVec.toNat_setWidth]
  omega

theorem merge16_and_lowMask (b1 b2 : Byte) : merge16 b1 b2 &&& 0xFF = b2.setWidth 16 := by
  have := b2.isLt
  apply BitVec.eq_of_toNat_eq
  rw [BitVec.toNat_and, merge16_toNat, show (0xFF : Half).toNat = 2 ^ 8 - 1 from rfl, Nat.and_two_pow_sub_one_eq_mod,
    BitVec.toNat_setWidth]
  omega

/-- Settles O9: the laws follow from the value, and from the two bytes standing in it side by side. -/
theorem mergeIsBigEndianAndBijective : Obligations.MergeIsBigEndianAndBijective := by
  refine ⟨merge16_toNat, fun b1 b2 hne heq => hne (merge16_injective heq).1,
    fun b1 b2 => ⟨merge16_ushiftRight b1 b2, merge16_and_lowMask b1 b2⟩, fun v => ?_, fun b1 b2 hb => ?_⟩
  · refine ⟨v.extractLsb' 8 8, v.extractLsb' 0 8, merge16_extractLsb' v, fun c1 c2 hc => ?_⟩
    exact merge16_injective (hc.trans (merge16_extractLsb' v).symm)
  · rw [merge16_toNat]
    omega

/-- Settles O12: the value that is shown is Merge16's own. -/
theorem mergeCompletes : Obligations.MergeCompletes := by
  intro b1 b2 s
  rw [← merge16_toNat, BitVec.ofNat_toNat, BitVec.setWidth_eq]
  rfl

/-! ### The fields by arithmetic -/

/-- The high bits of a byte, moved down. -/
theorem byte_highBits_toNat (b : Byte) {start len : Nat} (hl : start + len = 8) :
    (b.extractLsb' start len).toNat = b.toNat / 2 ^ start := by
  rw [BitVec.extractLsb'_toNat, Nat.shiftRight_eq_div_pow]
  exact Nat.mod_eq_of_lt (Nat.div_lt_of_lt_mul (by rw [← Nat.pow_add, hl]; exact b.isLt))

theorem versionOf_toNat (h : HeaderBytes) : (versionOf h).toNat = h[0].toNat / 16 := by
  rw [versionOf_eq]
  exact byte_highBits_toNat h[0] rfl

theorem ihlOf_toNat (h : HeaderBytes) : (ihlOf h).toNat = h[0].toNat % 16 := by
  rw [ihlOf_eq]
  rfl

/-- The three high bits of byte 6 keep their weight (R107). -/
theorem flagsOf_toNat (h : HeaderBytes) : (flagsOf h).toNat = 32 * (h[6].toNat / 32) := by
  rw [flagsOf_eq, append_toNat, byte_highBits_toNat h[6] rfl]
  rfl

theorem fragOffsetOf_toNat (h : HeaderBytes) : (fragOffsetOf h).toNat = 256 * (h[6].toNat % 32) + h[7].toNat := by
  rw [fragOffsetOf_eq, append_byte_toNat]
  rfl

/-- Settles O10: the whole bytes stand as they are, and each other field by its value. -/
theorem decodedFieldsFollowTheByteMap : Obligations.DecodedFieldsFollowTheByteMap := by
  intro h
  refine ⟨versionOf_toNat h, ihlOf_toNat h, rfl, merge16_toNat _ _, merge16_toNat _ _, flagsOf_toNat h, fragOffsetOf_toNat h,
    rfl, rfl, merge16_toNat _ _, fun j hj => ?_, fun j hj => ?_⟩
  · interval_cases j <;> rfl
  · interval_cases j <;> rfl

/-! ### The header rows on given bytes -/

/-- Settles O13: each row is `headerOp` with its own output. -/
theorem headerRowsCompleteOnGivenBytes : Obligations.HeaderRowsCompleteOnGivenBytes := by
  intro bytes s hl
  have hop := fun output => headerOp_given (output := output) s hl
  exact ⟨hop _, hop _, hop _, hop _, hop _, hop _, hop _, hop _, hop _, hop _, hop _, hop _, hop _⟩

theorem headerOp_short {bytes : List Byte} (hl : bytes.length < 20) (output : DecodedHeader → OutVal) (s : State) :
    headerOp output (.given bytes) s = .refused .shortHeader := by
  simp [headerOp, readHeader, headerOfBytes_short bytes hl]

theorem decodeAct_shortHeader {bytes : List Byte} (hl : bytes.length < 20) (sit : Situation) (sel : HdrSel) :
    decodeAct sit (.header sel (.given bytes)) = .reject .shortHeader :=
  if_neg (mt (headerWellFormed_iff bytes).mp (not_le.mpr hl))

/-- Settles O16: no header row finds a header in the bytes, and the decoder already rejects the act. -/
theorem shortHeadersAreRefused : Obligations.ShortHeadersAreRefused := by
  intro sel bytes s hl
  constructor
  · obtain ⟨output, hexec⟩ := exec_headerInstr sel (.given bytes) s
    rw [hexec, headerOp_short hl]
  · rintro ⟨rest, hin⟩
    simp only [step, hin, decodeAct_shortHeader hl, rejection]

end Sys2Proof.Machine
end

section
/-! PROOFS. The reader's rows, rule by rule (41_reader.md R140 to R157): a class row in the situation of its rule, a record row
as the row that its symbol selects, and what both write. -/

namespace Sys2Proof.Machine

open Sys2Proof.Claims

/-! ### The class rows in the situation of their rule -/

section
variable {s : State} {b : Byte}

theorem exec_clsCountEmpty (hp : s.phase = .count) (hi : s.preIdx = 0) : exec .clsCountEmpty s = .next (emptyCount s) :=
  if_pos ⟨hp, hi⟩

theorem exec_clsCountNone (hp : s.phase = .count) (hi : s.preIdx = 3) (hc : (s.completed b).toInt ≤ 0) :
    exec (.clsCountNone b) s = .next (finish (completeCount b s)) :=
  if_pos ⟨hp, hi, (countIsNone_iff _).mpr hc⟩

theorem exec_clsCountFrames (hp : s.phase = .count) (hi : s.preIdx = 3) (hc : 0 < (s.completed b).toInt) :
    exec (.clsCountFrames b) s = .next (enter .size (completeCount b s)) :=
  if_pos ⟨hp, hi, (not_countIsNone_iff _).mpr hc⟩

theorem exec_clsSizeOverflow (hp : s.phase = .size) (hi : s.preIdx = 3) (hn : 2048 < (s.completed b).toInt) :
    exec (.clsSizeOverflow b) s = .next (raiseErr .overflow .size (completeSize b s)) :=
  if_pos ⟨hp, hi, (sizeOverflows_iff _).mpr hn⟩

theorem exec_clsSizeUndersize (hp : s.phase = .size) (hi : s.preIdx = 3) (hn : (s.completed b).toInt < 20) :
    exec (.clsSizeUndersize b) s = .next (raiseErr .undersize .size (completeSize b s)) :=
  if_pos ⟨hp, hi, (sizeUndersize_iff _).mpr hn⟩

theorem exec_clsSizeAccept (hp : s.phase = .size) (hi : s.preIdx = 3) (hl : 20 ≤ (s.completed b).toInt)
    (hu : (s.completed b).toInt ≤ 2048) : exec (.clsSizeAccept b) s = .next (enterBody (completeSize b s)) :=
  if_pos ⟨hp, hi, (not_sizeOverflows_iff _).mpr hu, (not_sizeUndersize_iff _).mpr hl⟩

/-! ### A record row is the row that its symbol selects (R140, log 1) -/

theorem exec_recCount (hp : s.phase = .count) (sym : Symbol) :
    exec (.recCount sym) s = exec (selectCount s.situation sym) s := by
  cases sym with
  | byte b =>
    by_cases hi : s.preIdx = 3
    · refine (if_pos hp).trans ((if_pos hi).trans ?_)
      rcases le_or_gt (s.completed b).toInt 0 with hc | hc
      · rw [selectCount_none (sit := s.situation) hi hc, exec_clsCountNone hp hi hc]
        exact if_pos ((countIsNone_iff _).mpr hc)
      · rw [selectCount_frames (sit := s.situation) hi hc, exec_clsCountFrames hp hi hc]
        exact if_neg (mt (countIsNone_iff _).mp (not_le.mpr hc))
    · rw [selectCount_byte (sit := s.situation) hi]
  | eos =>
    by_cases hi : s.preIdx = 0
    · rw [selectCount_empty (sit := s.situation) hi, exec_clsCountEmpty hp hi]
      exact (if_pos hp).trans (if_pos hi)
    · rw [selectCount_eos (sit := s.situation) hi]
  | fail => rfl

theorem exec_recSize (hp : s.phase = .size) (sym : Symbol) :
    exec (.recSize sym) s = exec (selectSize s.situation sym) s := by
  cases sym with
  | byte b =>
    by_cases hi : s.preIdx = 3
    · refine (if_pos hp).trans ((if_pos hi).trans ?_)
      rcases lt_or_ge 2048 (s.completed b).toInt with ho | hu
      · rw [selectSize_overflow (sit := s.situation) hi ho, exec_clsSizeOverflow hp hi ho]
        exact if_pos ((sizeOverflows_iff _).mpr ho)
      · refine (if_neg (mt (sizeOverflows_iff _).mp (not_lt.mpr hu))).trans ?_
        rcases lt_or_ge (s.completed b).toInt 20 with hn | hl
        · rw [selectSize_undersize (sit := s.situation) hi hn, exec_clsSizeUndersize hp hi hn]
          exact if_pos ((sizeUndersize_iff _).mpr hn)
        · rw [selectSize_accept (sit := s.situation) hi hl hu, exec_clsSizeAccept hp hi hl hu]
          exact if_neg (mt (sizeUndersize_iff _).mp (not_lt.mpr hl))
    · rw [selectSize_byte (sit := s.situation) hi]
  | eos | fail => rfl

/-- What the selected row does, the record row does too. -/
theorem exec_selectedCount {sym : Symbol} {i : Instr} {o : Host.Outcome State Fault Refusal} (hp : s.phase = .count)
    (hsel : selectCount s.situation sym = i) (hrow : exec i s = o) : exec i s = o ∧ exec (.recCount sym) s = o :=
  ⟨hrow, by rw [exec_recCount hp, hsel, hrow]⟩

theorem exec_selectedSize {sym : Symbol} {i : Instr} {o : Host.Outcome State Fault Refusal} (hp : s.phase = .size)
    (hsel : selectSize s.situation sym = i) (hrow : exec i s = o) : exec i s = o ∧ exec (.recSize sym) s = o :=
  ⟨hrow, by rw [exec_recSize hp, hsel, hrow]⟩

end

/-- Settles O32: phase by phase; in BODY the record row is the selected row itself. -/
theorem recordRowsAgreeWithTheSelectedRow : Obligations.RecordRowsAgreeWithTheSelectedRow := by
  intro s sym i hsel
  refine ⟨fun hp => ?_, fun hp => ?_, fun hp => ?_⟩
  · rw [selectRow_count hp, Option.some.injEq] at hsel
    exact hsel ▸ exec_recCount hp sym
  · rw [selectRow_size hp, Option.some.injEq] at hsel
    exact hsel ▸ exec_recSize hp sym
  · rw [selectRow_body hp, Option.some.injEq] at hsel
    rw [hsel]

/-! ### The count and the sizes -/

/-- The value that a byte completes, by the weights of its four bytes (20_memory.md R64). -/
theorem State.completed_toInt (s : State) (b : Byte) : (s.completed b).toInt = held s b :=
  assemble32_toInt s.prefixOrder s.preBuf[0] s.preBuf[1] s.preBuf[2] b

theorem ofInt_held (s : State) (b : Byte) : BitVec.ofInt 32 (held s b) = s.completed b := by
  rw [← State.completed_toInt, BitVec.ofInt_toInt]

/-- The last report and the end of the run in one. -/
theorem finish_emit (e : Event) (s : State) :
    finish (emit e s) = { s with events := s.events ++ [e, .done], phase := .done } := by
  simp [finish, emit, enter]

/-- Settles O24: the class row, and the record row that selects it. -/
theorem emptyStreamMeansNoFrames : Obligations.EmptyStreamMeansNoFrames := by
  intro s hp hi
  have hcls := (exec_clsCountEmpty hp hi).trans (congrArg Host.Outcome.next (finish_emit (.count 0) { s with count := 0 }))
  exact exec_selectedCount hp (selectCount_empty hi) hcls

/-- Settles O25: the class of the value selects the class row, and the record row does the same. -/
theorem completedCountEndsOrGoesOn : Obligations.CompletedCountEndsOrGoesOn := by
  intro s b hp hi
  rw [ofInt_held, ← State.completed_toInt]
  refine ⟨fun hc => ?_, fun hc => exec_selectedCount hp (selectCount_frames hi hc) (exec_clsCountFrames hp hi hc)⟩
  have hcls := (exec_clsCountNone hp hi hc).trans (congrArg Host.Outcome.next (finish_emit _ _))
  exact exec_selectedCount hp (selectCount_none hi hc) hcls

/-- Settles O28: the three classes of a completed size, each by its class row and by the record row. -/
theorem completedSizeIsBounded : Obligations.CompletedSizeIsBounded := by
  intro s b hp hi
  rw [ofInt_held, ← State.completed_toInt]
  exact ⟨fun ho => exec_selectedSize hp (selectSize_overflow hi ho) (exec_clsSizeOverflow hp hi ho),
    fun hn => exec_selectedSize hp (selectSize_undersize hi hn) (exec_clsSizeUndersize hp hi hn),
    fun hl hu => exec_selectedSize hp (selectSize_accept hi hl hu) (exec_clsSizeAccept hp hi hl hu)⟩

/-- Settles O23: both record rows test the phase, then whether the byte is the fourth. -/
theorem firstThreeBytesAreStored : Obligations.FirstThreeBytesAreStored := by
  intro s b hlt
  have hi : s.preIdx ≠ 3 := by
    intro h3
    rw [h3] at hlt
    exact absurd hlt (by decide)
  exact ⟨fun hp => (if_pos hp).trans (if_neg hi), fun hp => (if_pos hp).trans (if_neg hi)⟩

/-- Settles O26: an `EOS` after the first byte, and a `Fail` at any. -/
theorem cutCountRaisesFormat : Obligations.CutCountRaisesFormat := by
  intro s hp
  exact ⟨fun hi => (if_pos hp).trans (if_neg hi), if_pos hp⟩

/-- Settles O27: the row tests its phase only. -/
theorem cutSizeRaisesFormat : Obligations.CutSizeRaisesFormat := by
  intro s hp
  exact ⟨if_pos hp, if_pos hp⟩

/-! ### The body -/

section
variable {s : State}

theorem exec_recBody_byte (b : Byte) (hp : s.phase = .body) (hlt : (s.bodyIdx.toNat : Int) < s.fsize.toInt) :
    exec (.recBody (.byte b)) s = .next (takeBodyByte b s) :=
  (if_pos hp).trans (if_pos hlt)

/-- A body byte before the last is only stored or dropped (R153, R155). -/
theorem takeBodyByte_of_lt (b : Byte) (hi : (s.bodyIdx.toNat : Int) + 1 < s.fsize.toInt) :
    takeBodyByte b s = storeBodyByte b s :=
  if_neg hi.ne

/-- The last body byte completes the frame (R156). -/
theorem takeBodyByte_last (b : Byte) (hi : (s.bodyIdx.toNat : Int) + 1 = s.fsize.toInt) :
    takeBodyByte b s = afterFrame (completeFrame (storeBodyByte b s)) :=
  if_pos hi

end

/-- Settles O29: such a byte is not the last, and the test of its index is that of the store. -/
theorem bodyBytesAreStoredOrDropped : Obligations.BodyBytesAreStoredOrDropped := by
  intro s b hp hi
  rw [exec_recBody_byte b hp (by omega), takeBodyByte_of_lt b hi]
  rfl

/-- Settles O30: the frame is reported, and its number is compared with the count. -/
theorem lastBodyByteReportsTheFrame : Obligations.LastBodyByteReportsTheFrame := by
  intro s b hp hi
  rw [exec_recBody_byte b hp (by omega), takeBodyByte_last b hi]
  refine ⟨fun hk => congrArg Host.Outcome.next ?_, fun hk => congrArg Host.Outcome.next (if_neg hk)⟩
  exact (if_pos hk).trans (finish_emit _ { storeBodyByte b s with framesDone := s.framesDone + 1 })

/-- Settles O31: the row tests its phase only. -/
theorem cutBodyRaisesFormat : Obligations.CutBodyRaisesFormat := by
  intro s hp
  exact ⟨if_pos hp, if_pos hp⟩

end Sys2Proof.Machine
end

section
/-! PROOFS. The reader's phases (41_reader.md R140, R141, R158, R159): how Start opens the first, which way leads on from each,
that no answer stops a busy one, and that the last two are final. -/

namespace Sys2Proof.Machine

open Sys2Proof.Claims

/-! ### Start -/

theorem exec_cmdStart_refused {s : State} (hp : s.phase ≠ .idle) (opened : Bool) :
    exec (.cmdStart opened) s = .refused .startOutsideIdle :=
  if_neg hp

/-- Settles O20: Start tests the phase, then the host's answer. -/
theorem startOpensOrRaisesOrIsRefused : Obligations.StartOpensOrRaisesOrIsRefused :=
  ⟨fun _ hp => ⟨if_pos hp, if_pos hp⟩, fun _ opened hp => exec_cmdStart_refused hp opened⟩

/-! ### The ways between phases -/

/-- An effect that leaves its phase takes one of these ways. -/
theorem Effect.phase_cases {act : HostAct} {u t : State} (he : Effect act u t) (hne : t.phase ≠ u.phase) :
    (t.phase = .idle ∧ act = .reset) ∨
    (u.phase = .idle ∧ (t.phase = .count ∨ t.phase = .error)) ∨
    (u.phase = .count ∧ (t.phase = .size ∨ t.phase = .done ∨ t.phase = .error)) ∨
    (u.phase = .size ∧ (t.phase = .body ∨ t.phase = .error)) ∨
    (u.phase = .body ∧ (t.phase = .size ∨ t.phase = .done ∨ t.phase = .error)) := by
  cases he with
  | reset => exact .inl ⟨rfl, rfl⟩
  | opened hp | notOpened hp => exact .inr (.inl ⟨hp, by simp⟩)
  | countNone hp | countFrames hp | countEmpty hp | countShort hp | countFailed hp =>
    exact .inr (.inr (.inl ⟨hp, by simp⟩))
  | sizeOverflow hp | sizeUndersize hp | sizeAccept hp | sizeCut hp => exact .inr (.inr (.inr (.inl ⟨hp, by simp⟩)))
  | bodyNext hp | bodyLast hp | bodyCut hp => exact .inr (.inr (.inr (.inr ⟨hp, by simp⟩)))
  | countByte | sizeByte | bodyByte | shown => exact absurd rfl hne

/-- Settles O47: a step has an effect, and the effects name the ways. -/
theorem phasesFollowTheSequence : Obligations.PhasesFollowTheSequence := by
  intro s t h hne
  obtain ⟨act, he, htakes⟩ := step_effect_takes h
  rw [htakes, eq_comm (a := HostAct.reset)]
  exact he.phase_cases hne

/-! ### A busy reader takes every answer -/

section
variable {s : State} (sym : Symbol)

theorem exec_recCount_next (hp : s.phase = .count) : ∃ t, exec (.recCount sym) s = .next t := by
  cases sym with
  | byte b | eos =>
    simp only [exec, execRecCount, if_pos hp]
    split_ifs <;> exact ⟨_, rfl⟩
  | fail => exact ⟨_, if_pos hp⟩

theorem exec_recSize_next (hp : s.phase = .size) : ∃ t, exec (.recSize sym) s = .next t := by
  cases sym with
  | byte b =>
    simp only [exec, execRecSize, if_pos hp]
    split_ifs <;> exact ⟨_, rfl⟩
  | eos | fail => exact ⟨_, if_pos hp⟩

theorem exec_recBody_next (hp : s.phase = .body) (hlt : (s.bodyIdx.toNat : Int) < s.fsize.toInt) :
    ∃ t, exec (.recBody sym) s = .next t := by
  cases sym with
  | byte b => exact ⟨_, exec_recBody_byte b hp hlt⟩
  | eos | fail => exact ⟨_, if_pos hp⟩

end

/-- Settles O51: the selected row does what the record row does, which has a next state on every symbol; in BODY the invariant
bounds the index. -/
theorem busyReaderTakesEveryAnswer : Obligations.BusyReaderTakesEveryAnswer := by
  rintro s sym hs hb ⟨rest, hin⟩
  rcases s.busy_iff.mp hb with hp | hp | hp
  · rw [step_answer hin (selectRow_count hp sym), ← State.popped_situation, ← exec_recCount (s := s.popped) hp]
    exact exec_recCount_next sym hp
  · rw [step_answer hin (selectRow_size hp sym), ← State.popped_situation, ← exec_recSize (s := s.popped) hp]
    exact exec_recSize_next sym hp
  · rw [step_answer hin (selectRow_body hp sym)]
    obtain ⟨-, -, hlt⟩ := hs.in_body hp
    exact exec_recBody_next sym hp hlt

/-! ### The final phases -/

theorem State.busy_of_final {s : State} (hp : s.phase = .done ∨ s.phase = .error) : s.busy = false := by
  rcases hp with hp | hp <;> simp [State.busy, hp]

theorem step_start_refused {s : State} {opened : Bool} (hp : s.phase ≠ .idle) (ht : Takes s (.start opened)) :
    step s = .refused .startOutsideIdle := by
  obtain ⟨rest, hin⟩ := ht
  rw [stepRunsTheDecodedRow s _ rest (.cmdStart opened) hin rfl]
  exact exec_cmdStart_refused (s := { s with inbox := rest }) hp opened

/-- Settles O36: answers and Start are refused, so what else completes but Reset only shows a result. -/
theorem finalPhasesAreLeftOnlyByReset : Obligations.FinalPhasesAreLeftOnlyByReset := by
  intro s hp
  have hbusy := State.busy_of_final hp
  have hidle : s.phase ≠ .idle := by rcases hp with hp | hp <;> simp [hp]
  refine ⟨fun hd => by simp [State.completion, hd], fun hd => by simp [State.completion, hd], hbusy,
    fun sym => answersWithoutARequestAreRefused s sym hbusy, fun opened => step_start_refused hidle, fun t h hr => ?_⟩
  obtain ⟨act, he, htakes⟩ := step_effect_takes h
  refine sameBlock_trans (sameBlock_popped s) (he.sameBlock ?_ ?_ ?_)
  · rintro rfl
    exact hr ((htakes _).mpr rfl)
  · rintro opened rfl
    cases h.symm.trans (step_start_refused hidle ((htakes _).mpr rfl))
  · rintro sym rfl
    cases h.symm.trans (answersWithoutARequestAreRefused s sym hbusy ((htakes _).mpr rfl))

end Sys2Proof.Machine
end

section
/-! PROOFS. The two runs of the reader by themselves (41_reader.md R160, R161). -/

namespace Sys2Proof.Machine

/-- Settles O57: the last state of the run, for each class of the count. -/
theorem countIsReadInFourSteps : Obligations.CountIsReadInFourSteps := by
  intro s c rest hp hi hin
  have hrun := run_count hp hi hin
  rcases le_or_gt c.toInt 0 with hc | hc
  · rw [afterCount, if_pos (show (readCount c rest s).count.toInt ≤ 0 from hc)] at hrun
    exact ⟨_, hrun, rfl, rfl, rfl, rfl, rfl, fun h => absurd hc (not_le.mpr h), fun _ => ⟨rfl, List.append_assoc ..⟩⟩
  · rw [afterCount, if_neg (show ¬ (readCount c rest s).count.toInt ≤ 0 from not_le.mpr hc)] at hrun
    exact ⟨_, hrun, rfl, rfl, rfl, rfl, rfl, fun _ => ⟨rfl, rfl⟩, fun h => absurd hc (not_lt.mpr h)⟩

/-- Settles O58: the last state of the run, whether the frame is the last or not. -/
theorem frameIsReadInFourPlusSizeSteps : Obligations.FrameIsReadInFourPlusSizeSteps := by
  intro s body rest hp hi hl hu hin
  have hrun := run_frame hp hi hl hu hin
  have hev := reportFrame_events body rest s
  by_cases hk : s.framesDone + 1 = s.count
  · have hlast := readToDone_finish_reportFrame (body := body) rest hk
    have hend := hrun.trans (congrArg Host.Outcome.next (if_pos hk))
    exact ⟨_, hend, hlast.pos, rfl, rfl, rfl, rfl, rfl, fun _ => ⟨hlast.phase, hlast.events⟩, fun hne => absurd hk hne⟩
  · have hnext := hrun.trans (congrArg Host.Outcome.next (if_neg hk))
    exact ⟨_, hnext, rfl, rfl, rfl, rfl, rfl, rfl, fun he => absurd he hk, fun _ => ⟨rfl, rfl, rfl, hev⟩⟩

end Sys2Proof.Machine
end

section
/-! PROOFS. Taking an error (60_exceptions.md R180 to R185), and waiting for the host (R187, R195). -/

namespace Sys2Proof.Machine

open Sys2Proof.Claims

/-! ### Taking an error -/

/-- Settles O41: `raiseErr` is put together from these writes. -/
theorem raiseErrWritesFourThings : Obligations.RaiseErrWritesFourThings := fun _ _ _ => rfl

theorem symbol_eos_or_fail {sym : Symbol} (hs : ∀ b, sym ≠ .byte b) : sym = .eos ∨ sym = .fail := by
  cases sym with
  | byte b => exact absurd rfl (hs b)
  | eos => exact .inl rfl
  | fail => exact .inr rfl

/-- An effect enters ERROR in one of two ways: an act that consumes nothing raises its error at once, and the byte that
completes a rejected size first makes that size's own writes (R181, R185). -/
theorem Effect.error_entry {act : HostAct} {u t : State} (he : Effect act u t) (hu : u.phase ≠ .error)
    (ht : t.phase = .error) :
    (∃ code field, (EarlyCause code field ∨ LateCause code field) ∧
      (act = .start false ∨ act = .answer .eos ∨ act = .answer .fail) ∧ t = raiseErr code field u) ∨
    (∃ b code, act = .answer (.byte b) ∧ ((code = .overflow ∧ 2048 < held u b) ∨ (code = .undersize ∧ held u b < 20)) ∧
      t = raiseErr code .size (completeSize b u)) := by
  cases he with
  | notOpened => exact .inl ⟨.open, .none, by simp [EarlyCause], .inl rfl, rfl⟩
  | countShort => exact .inl ⟨.format, .count, by simp [EarlyCause], .inr (.inl rfl), rfl⟩
  | countFailed => exact .inl ⟨.format, .count, by simp [EarlyCause], .inr (.inr rfl), rfl⟩
  | sizeCut _ hs => exact .inl ⟨.format, .size, by simp [LateCause], by simpa using symbol_eos_or_fail hs, rfl⟩
  | bodyCut _ hs => exact .inl ⟨.format, .body, by simp [LateCause], by simpa using symbol_eos_or_fail hs, rfl⟩
  | sizeOverflow _ _ hn =>
    rw [State.completed_toInt] at hn
    exact .inr ⟨_, _, rfl, .inl ⟨rfl, hn⟩, rfl⟩
  | sizeUndersize _ _ hn =>
    rw [State.completed_toInt] at hn
    exact .inr ⟨_, _, rfl, .inr ⟨rfl, hn⟩, rfl⟩
  | countByte | sizeByte | bodyByte | shown => exact absurd ht hu
  | reset | opened | countNone | countFrames | countEmpty | sizeAccept | bodyNext | bodyLast => cases ht

/-- Settles O40: in both ways into ERROR the registers are those of `raiseErr`, before which only a completed size writes. -/
theorem errorEntryRecordsReportsAndReleases : Obligations.ErrorEntryRecordsReportsAndReleases := by
  intro s t h hs ht
  obtain ⟨act, he, htakes⟩ := step_effect_takes h
  simp only [htakes, eq_comm (b := act)]
  rcases he.error_entry hs ht with ⟨code, field, hcause, hact, rfl⟩ | ⟨b, code, rfl, hclass, rfl⟩
  · have hbyte : ∀ b, act ≠ .answer (.byte b) := by rcases hact with rfl | rfl | rfl <;> simp
    refine ⟨hcause, rfl, rfl, rfl, rfl, rfl, rfl, rfl, rfl, rfl, ?_, fun _ => ⟨rfl, rfl, rfl, rfl⟩,
      fun b hb => absurd hb (hbyte b)⟩
    simpa only [or_assoc] using Or.inl hact
  · have hcause : LateCause code .size := by
      rcases hclass with ⟨rfl, -⟩ | ⟨rfl, -⟩ <;> simp [LateCause]
    refine ⟨.inr hcause, rfl, rfl, rfl, rfl, rfl, rfl, rfl, rfl, rfl, by simp, by simp, ?_⟩
    rintro _ ⟨⟩
    exact ⟨rfl, rfl, rfl, (ofInt_held s b).symm, hclass⟩

/-! ### Waiting for the host -/

theorem step_waiting {s : State} (hin : s.inbox = []) : step s = .fault (waiting s) := by simp [step, hin]

/-- Settles O35: without an act a step only says what the phase waits for. -/
theorem nothingFromTheHostMeansWaiting : Obligations.NothingFromTheHostMeansWaiting := by
  intro s hin
  rw [step_waiting hin, State.busy_iff]
  refine ⟨fun hp => ?_, ?_, ?_⟩
  · simp [waiting, hp]
  · rintro (hp | hp | hp) <;> simp [waiting, hp]
  · rintro (hp | hp) <;> simp [waiting, hp]

end Sys2Proof.Machine
end

section
/-! PROOFS. Reset (70_reset_and_hazards.md R210, R213) and the window of the port `dec` (R217). -/

namespace Sys2Proof.Machine

open Sys2Proof.Claims

/-! ### Reset -/

/-- The Reset row has a next state in every phase. -/
theorem exec_cmdReset (s : State) : exec .cmdReset s = .next (resetBlock s) := rfl

/-- What Reset keeps is in no status register. -/
theorem statusRegister_resetBlock (s : State) (n : Nat) :
    statusRegister (resetBlock s) n = statusRegister State.reset n := rfl

theorem statusRegister_reset : ∀ n, n ≤ 7 → statusRegister State.reset n = some 0 := by decide

/-- Settles O22: `resetBlock` is that state. -/
theorem resetLeadsToTheModelsFirstState : Obligations.ResetLeadsToTheModelsFirstState := exec_cmdReset

/-- Settles O21: each register of `resetBlock` holds its reset value, so each status register reads 0. -/
theorem resetRestoresEveryRegister : Obligations.ResetRestoresEveryRegister := by
  intro s
  refine ⟨_, exec_cmdReset s, rfl, rfl, ?preBuf, rfl, rfl, rfl, ?hdr, rfl, rfl, rfl, rfl, rfl, rfl, rfl, rfl, rfl, ?status⟩
  case preBuf | hdr => simp
  case status =>
    intro n hn
    rw [statusRegister_resetBlock]
    exact statusRegister_reset n hn

/-! ### The window in one state -/

/-- The reader has consumed a byte of the body it is in, or stopped in: the second half of `DecWindow`. -/
def State.InsideBody (s : State) : Prop :=
  (s.phase = .body ∨ (s.phase = .error ∧ s.errField = .body)) ∧ s.bodyIdx ≠ 0

theorem decWindow_iff (s : State) : DecWindow s ↔ s.framesDone ≠ 0 ∧ ¬ s.InsideBody := Iff.rfl

/-- Outside a body the window is open exactly when a frame has been completed. -/
theorem decWindow_congr {s t : State} (hf : t.framesDone = s.framesDone) (ht : ¬ t.InsideBody) (hs : ¬ s.InsideBody) :
    DecWindow t ↔ DecWindow s := by
  simp only [decWindow_iff, hf, ht, hs]

theorem not_decWindow_of_framesDone {s : State} (h : s.framesDone = 0) : ¬ DecWindow s := fun hw => hw.1 h

theorem not_decWindow_of_body {s : State} (hp : s.phase = .body) (hi : s.bodyIdx ≠ 0) : ¬ DecWindow s :=
  fun hw => hw.2 ⟨.inl hp, hi⟩

theorem succ_ne_zero_of_toNat {w : Nat} {x : BitVec w} (h : (x + 1).toNat = x.toNat + 1) : x + 1 ≠ 0 := by
  intro h0
  rw [h0] at h
  simp at h

theorem State.Inv.framesDone_succ_ne_zero {s : State} (h : s.Inv) (hp : s.phase = .body) : s.framesDone + 1 ≠ 0 :=
  succ_ne_zero_of_toNat (h.framesDone_succ_toNat (.inr hp))

theorem State.Inv.bodyIdx_succ_ne_zero {s : State} (h : s.Inv) (hp : s.phase = .body) : s.bodyIdx + 1 ≠ 0 := by
  obtain ⟨-, hu, hlt⟩ := h.in_body hp
  exact succ_ne_zero_of_toNat (bodyIdx_succ_toNat hlt hu)

/-! ### How an effect moves the window -/

/-- Only the last byte of a body reports a frame, and it leaves BODY with `frames_done` counted up. -/
theorem Effect.decWindow_of_frame {act : HostAct} {u t : State} (he : Effect act u t) (hu : u.Inv) {k : Word}
    {d : DecodedHeader} {p : BitVec 4} {new : List Event} (hev : t.events = u.events ++ .frame k d p :: new) :
    DecWindow t := by
  cases he with
  | bodyNext hp | bodyLast hp => exact ⟨hu.framesDone_succ_ne_zero hp, by simp⟩
  | _ => simp at hev

/-- A body byte that reports nothing is counted in `body_idx`. -/
theorem Effect.not_decWindow_of_bodyByte {b : Byte} {u t : State} (he : Effect (.answer (.byte b)) u t) (hu : u.Inv)
    (hp : u.phase = .body) (hev : t.events = u.events) : ¬ DecWindow t := by
  cases he with
  | bodyByte => exact not_decWindow_of_body hp (hu.bodyIdx_succ_ne_zero hp)
  | bodyNext | bodyLast => simp at hev
  | bodyCut _ hs => exact absurd rfl (hs _)
  | shown _ _ ha => exact absurd rfl (ha _)
  | countByte hc | countNone hc | countFrames hc | sizeByte hc | sizeOverflow hc | sizeUndersize hc | sizeAccept hc
  | sizeCut hc =>
    cases hp.symm.trans hc

/-- Of the other effects the completed count alone writes `frames_done`, over the 0 that Reset left; an accepted size enters
BODY with `body_idx` 0, and a body cut short keeps its `body_idx`. -/
theorem Effect.decWindow_iff {act : HostAct} {u t : State} (he : Effect act u t) (hu : u.Inv) (hr : act ≠ .reset)
    (hb : ¬(u.phase = .body ∧ ∃ b, act = .answer (.byte b))) : DecWindow t ↔ DecWindow u := by
  cases he with
  | reset => exact absurd rfl hr
  | bodyByte hp | bodyNext hp | bodyLast hp => exact absurd ⟨hp, _, rfl⟩ hb
  | countNone hp | countFrames hp =>
    obtain ⟨-, hfd⟩ := hu.before_count (.inr hp)
    exact iff_of_false (not_decWindow_of_framesDone rfl) (not_decWindow_of_framesDone hfd)
  | bodyCut hp => simp [DecWindow, hp]
  | shown => exact Iff.rfl
  | opened hp | notOpened hp | countByte hp | countEmpty hp | countShort hp | countFailed hp | sizeByte hp
  | sizeOverflow hp | sizeUndersize hp | sizeAccept hp | sizeCut hp =>
    exact decWindow_congr rfl (by simp [State.InsideBody, hp]) (by simp [State.InsideBody, hp])

/-- Settles O53: a step has an effect, and the effects say how the window moves. -/
theorem decWindowFollowsTheFrames : Obligations.DecWindowFollowsTheFrames := by
  intro s t hs h
  obtain ⟨act, he, htakes⟩ := step_effect_takes h
  have hu : s.popped.Inv := hs.of_sameBlock (sameBlock_popped s)
  simp only [htakes, eq_comm (b := act)]
  refine ⟨?opens, ?closes, ?resets, fun hr hb => he.decWindow_iff hu hr hb⟩
  case opens =>
    rintro ⟨k, d, p, new, hev⟩
    exact he.decWindow_of_frame hu hev
  case closes =>
    rintro hp ⟨b, rfl⟩ hev
    exact he.not_decWindow_of_bodyByte hu hp hev
  case resets =>
    rintro rfl
    cases he with
    | reset => exact not_decWindow_of_framesDone rfl
    | shown hr => exact absurd rfl hr

end Sys2Proof.Machine
end

section
/-! PROOFS. The header rows through the port `dec` outside its window (93_implementation_defined.md U3). -/

namespace Sys2Proof.Machine

open Sys2Proof.Claims

/-- A header operation through the closed port shows its output of the next free value (log 5). -/
theorem headerOp_port_closed {s : State} (h : ¬ DecWindow s) (output : DecodedHeader → OutVal) :
    headerOp output .port s = .next { s with out := output (Config.openDec s.draws), draws := s.draws + 1 } := by
  have hc : ¬ s.decOpen = true := fun ho => h ((decOpen_iff s).mp ho)
  simp [headerOp, readHeader, hc, answerWith]

/-- Settles O15: each row is `headerOp` with its own output, here of a free value. -/
theorem headerRowsCompleteThroughTheClosedPort : Obligations.HeaderRowsCompleteThroughTheClosedPort := by
  intro sel s hw
  obtain ⟨output, hexec⟩ := exec_headerInstr sel .port s
  exact ⟨_, hexec.trans (headerOp_port_closed hw output)⟩

end Sys2Proof.Machine
end
